-- ==== Sys2Proof/Word.lean ====
section
/-! DEFINITION. The data types of LSCORE (00_scope.md R12): bytes, words, blocks, the State matrix. A Word is a
sequence of four bytes, never an integer (R12, R67). -/

namespace Sys2Proof

/-- An unsigned integer 0..255, bits numbered 7 down to 0 (R12). -/
abbrev Byte := BitVec 8

/-- Four bytes in sequence; `w[0]` is the first byte (R12, R67). -/
abbrev Word := Vector Byte 4

/-- Sixteen bytes indexed 0..15 (R12). -/
abbrev Block := Vector Byte 16

/-- The 4×4 State, `T[r][c]` = row r, column c (R25, R140). -/
abbrev Mat := Vector (Vector Byte 4) 4

/-- A Round-Key Schedule as a sequence of Words (R130). -/
abbrev Schedule := List Word

/-- The Word 00000000. -/
def zeroWord : Word := Vector.replicate 4 0

end Sys2Proof
end

