-- ==== Sys2Proof/Machine/Bytes.lean ====
section
/-! DEFINITION. Byte-order helpers (00_scope.md R13, 20_memory.md R65): big-endian bytes of a number, one byte of a
wide register, and its replacement. -/

namespace Sys2Proof.Machine

/-- `be32(v)`: four bytes, most significant first (R13). -/
def be32 (v : BitVec 32) : List Byte :=
  [v.extractLsb' 24 8, v.extractLsb' 16 8, v.extractLsb' 8 8, v.extractLsb' 0 8]

/-- The high half of a 64-bit number, `v >> 32`. -/
def high32 (v : BitVec 64) : BitVec 32 := (v >>> 32).setWidth 32

/-- The low half of a 64-bit number, `v mod 2^32`. -/
def low32 (v : BitVec 64) : BitVec 32 := v.setWidth 32

/-- `be64(v) = be32(v >> 32) ++ be32(v mod 2^32)` (R13). -/
def be64 (v : BitVec 64) : List Byte := be32 (high32 v) ++ be32 (low32 v)

/-- Byte `i` of the big-endian representation of a `len`-byte number: byte 0 is the most significant (R65). -/
def beByte {n : Nat} (v : BitVec n) (len i : Nat) : Byte := v.extractLsb' (8 * (len - 1 - i)) 8

/-- The number with byte `i` of its big-endian representation replaced by `b`, the other bytes kept (R72). -/
def setBeByte {n : Nat} (v : BitVec n) (len i : Nat) (b : Byte) : BitVec n :=
  (v &&& ~~~((0xFF#8).setWidth n <<< (8 * (len - 1 - i)))) ||| (b.setWidth n <<< (8 * (len - 1 - i)))

/-- Byte `i` of an array register; 0x00 past its end. -/
def byteAt {n : Nat} (v : Vector Byte n) (i : Nat) : Byte := v.toList.getD i 0

/-- The first `n` bytes of a byte string as an array, zero-filled if it is shorter. -/
def arrayOf (n : Nat) (x : List Byte) : Vector Byte n := Vector.ofFn fun i => x.getD i.val 0

/-- XOR of two byte strings, byte by byte, as long as the shorter one (R13). -/
def xorBytes (x y : List Byte) : List Byte := List.zipWith (· ^^^ ·) x y

/-- `ceil(a/b) = (a + b - 1) div b` (R13). -/
def ceilDiv (a b : Nat) : Nat := (a + b - 1) / b

end Sys2Proof.Machine
end

