-- ==== Sys2Proof/Machine/Base64Codec.lean ====
section
/-! DEFINITION. The pure functions of the unit B64 (44_base64.md R200, R205, R206, R207). Text is ASCII bytes; `none`
stands for "malformed". -/

namespace Sys2Proof.Machine

/-- `Chr(v)` for 0 ≤ v ≤ 63 (R200). -/
def b64Chr (v : Byte) : Byte :=
  if v.toNat ≤ 25 then 0x41 + v
  else if v.toNat ≤ 51 then 0x61 + (v - 26)
  else if v.toNat ≤ 61 then 0x30 + (v - 52)
  else if v = 62 then 0x2B
  else 0x2F

/-- `Val(c)`: the v with `Chr(v) = c`, or none (R200). -/
def b64Val (c : Byte) : Option Byte :=
  if 0x41 ≤ c.toNat ∧ c.toNat ≤ 0x5A then some (c - 0x41)
  else if 0x61 ≤ c.toNat ∧ c.toNat ≤ 0x7A then some (c - 0x61 + 26)
  else if 0x30 ≤ c.toNat ∧ c.toNat ≤ 0x39 then some (c - 0x30 + 52)
  else if c = 0x2B then some 62
  else if c = 0x2F then some 63
  else none

/-- The pad character '=' (R200). -/
def b64Pad : Byte := 0x3D

/-- `EncQ` of one quantum of 1, 2 or 3 bytes; the empty quantum does not occur (R207). -/
def encQ : List Byte → List Byte
  | x0 :: x1 :: x2 :: _ =>
    [b64Chr (x0 >>> 2), b64Chr (((x0 &&& 3) <<< 4) ||| (x1 >>> 4)), b64Chr (((x1 &&& 15) <<< 2) ||| (x2 >>> 6)),
      b64Chr (x2 &&& 63)]
  | [x0, x1] =>
    [b64Chr (x0 >>> 2), b64Chr (((x0 &&& 3) <<< 4) ||| (x1 >>> 4)), b64Chr ((x1 &&& 15) <<< 2), b64Pad]
  | [x0] => [b64Chr (x0 >>> 2), b64Chr ((x0 &&& 3) <<< 4), b64Pad, b64Pad]
  | [] => []

/-- First decoded byte of a quantum from its first two digits (R207). -/
def decByte0 (v0 v1 : Byte) : Byte := (v0 <<< 2) ||| (v1 >>> 4)

/-- Second decoded byte (R207). -/
def decByte1 (v1 v2 : Byte) : Byte := ((v1 &&& 15) <<< 4) ||| (v2 >>> 2)

/-- Third decoded byte (R207). -/
def decByte2 (v2 v3 : Byte) : Byte := ((v2 &&& 3) <<< 6) ||| v3

/-- `DecQ([c0, c1, c2, c3], final)` (R207): padding only in a final quantum, unused bits zero. -/
def decQ (c0 c1 c2 c3 : Byte) (final : Bool) : Option (List Byte) :=
  match b64Val c0, b64Val c1 with
  | some v0, some v1 =>
    if c2 = b64Pad then
      if final = true ∧ c3 = b64Pad ∧ v1 &&& 15 = 0 then some [decByte0 v0 v1] else none
    else
      match b64Val c2 with
      | none => none
      | some v2 =>
        if c3 = b64Pad then
          if final = true ∧ v2 &&& 3 = 0 then some [decByte0 v0 v1, decByte1 v1 v2] else none
        else
          match b64Val c3 with
          | none => none
          | some v3 => some [decByte0 v0 v1, decByte1 v1 v2, decByte2 v2 v3]
  | _, _ => none

/-- `B64Enc(x)`: EncQ of each group of three bytes, the last group having 1, 2 or 3 (R205). -/
def b64Enc : List Byte → List Byte
  | x0 :: x1 :: x2 :: rest => encQ [x0, x1, x2] ++ b64Enc rest
  | [x0, x1] => encQ [x0, x1]
  | [x0] => encQ [x0]
  | [] => []

/-- `B64Dec(t)` (R206): quantum by quantum, `final` on the last; a length that is no multiple of 4 is malformed. -/
def b64Dec : List Byte → Option (List Byte)
  | [] => some []
  | c0 :: c1 :: c2 :: c3 :: rest =>
    match decQ c0 c1 c2 c3 rest.isEmpty, b64Dec rest with
    | some x, some out => some (x ++ out)
    | _, _ => none
  | [_] => none
  | [_, _] => none
  | [_, _, _] => none

end Sys2Proof.Machine
end

