-- ==== Sys2Proof/Syntax.lean ====
section
/-! DEFINITION. The 24 commands of LSCORE (30_encoding.md R93), one constructor per row of the opcode map. A format-A
command carries its operand byte ARG; a format-Z command has none; SRST (format X) ignores ARG. -/

namespace Sys2Proof

/-- A command. Operands are the raw byte ARG (R92); the legal ranges are `Instr.wf`. -/
inductive Instr where
  | nop                     -- 0x00 R221
  | srst                    -- 0x01 R222
  | kexp                    -- 0x10 R131
  | ldst                    -- 0x20 R141
  | subb                    -- 0x21 R142
  | shrw                    -- 0x22 R143
  | mixc                    -- 0x23 R144
  | adrk (round : Byte)     -- 0x24 R145
  | stst                    -- 0x25 R146
  | encb                    -- 0x28 R147
  | pwbk                    -- 0x30 R161
  | drvk                    -- 0x31 R162
  | gnnc                    -- 0x32 R163
  | ldnc                    -- 0x33 R164
  | emnc                    -- 0x34 R165
  | ctrb                    -- 0x35 R166
  | xorb (k : Byte)         -- 0x36 R167
  | cblk (k : Byte)         -- 0x37 R168
  | encr                    -- 0x38 R169
  | decr                    -- 0x39 R170
  | b64e (k : Byte)         -- 0x40 R201
  | b64d (f : Byte)         -- 0x41 R202
  | b64em                   -- 0x42 R203
  | b64dm                   -- 0x43 R204
  deriving DecidableEq, Repr

end Sys2Proof
end

