-- ==== Sys2Proof/Machine/State.lean ====
section
/-! DEFINITION. The state of LSCORE (10_state.md R20 to R39) as plain data, what stops the model, and the reset state.
Beside the spec's registers it holds the command in hold (R230) and the environment: the host's script, the bytes its
reads returned, and the clock ports (log entries 1 and 2). -/

namespace Sys2Proof.Machine

/-- STATUS.KSZ (R30): which schedule W holds. -/
inductive Ksz where
  | empty   -- 0: none
  | nk4     -- 1: Nk = 4, 44 words
  | nk6     -- 2: Nk = 6, 52 words
  | nk8     -- 3: Nk = 8, 60 words
  deriving DecidableEq, Repr

/-- The fault codes of the register ERR (R240). -/
inductive ErrCode where
  | noFault             -- 0
  | invalidKeySize      -- 1
  | malformedEnvelope   -- 2
  | illegalCommand      -- 3
  | sequenceError       -- 4
  deriving DecidableEq, Repr

/-- One action of LSCORE's surroundings (R11, R96, R254): a bus transaction of the host, a change of what the clock
source presents (the script line CLOCK), or hardware reset (the script line RESET). -/
inductive Event where
  /-- `MemRead(addr, 1)` (R223). -/
  | read (addr : BitVec 12)
  /-- `MemWrite(addr, 1, data)` (R224). -/
  | write (addr : BitVec 12) (data : Byte)
  /-- From now on the clock ports present these values (R96). -/
  | clock (sec : BitVec 64) (ms : BitVec 10)
  /-- Hardware reset (R270). -/
  | reset
  deriving DecidableEq, Repr

/-- The values presented on the input ports CLK_SEC and CLK_MS (R253). -/
structure ClockPins where
  sec : BitVec 64
  ms : BitVec 10
  deriving DecidableEq, Repr

/-- The environment, which is not state of LSCORE (R11); resets leave it alone. -/
structure Env where
  /-- The events still to come, the next one first (log entry 1). -/
  script : List Event
  /-- The bytes the host's reads have returned, oldest first (log entry 1). -/
  replies : List Byte
  /-- What a CLOCK line presents on the ports, or `none`: each sample is then a free value (log entry 2). -/
  clock : Option ClockPins
  /-- How many clock samples have been taken: the index of the next free clock value (log entry 2). -/
  draws : Nat
  deriving DecidableEq, Repr

/-- The state of the machine; every field but `held` and `env` is a row of R20 or a field of STATUS (R30). -/
structure State where
  /-- KEYBITS, requested key size in bits (R21). -/
  keybits : BitVec 16
  /-- PWLEN, number of password bytes, 0..32 (R22). -/
  pwlen : BitVec 6
  /-- PW[0..31] (R22). -/
  pw : Vector Byte 32
  /-- KEY[0..31] (R23). -/
  key : Vector Byte 32
  /-- W[0..59], the Round-Key Schedule (R24). -/
  w : Vector Word 60
  /-- S[0..3][0..3], the State matrix (R25). -/
  mat : Mat
  /-- BLKIN[0..15] (R26). -/
  blkin : Block
  /-- BLKOUT[0..15] (R27). -/
  blkout : Block
  /-- NONCE[0..7] (R28). -/
  nonce : Vector Byte 8
  /-- CTR, the block counter (R29). -/
  ctr : BitVec 64
  /-- INLEN (R33). -/
  inlen : BitVec 64
  /-- OUTLEN (R33). -/
  outlen : BitVec 64
  /-- ARG, operand of the next command (R32). -/
  arg : Byte
  /-- STATUS.BUSY (R30): a command is accepted and not completed; in this model: in hold (R280). -/
  busy : Bool
  /-- STATUS.DONE (R30). -/
  done : Bool
  /-- STATUS.FAULT (R30). -/
  fault : Bool
  /-- STATUS.NV (R30): NONCE has been loaded. -/
  nv : Bool
  /-- STATUS.KSZ (R30). -/
  ksz : Ksz
  /-- ERR (R31). -/
  err : ErrCode
  /-- ERROP (R31). -/
  errop : Byte
  /-- ERRARG (R31). -/
  errarg : Byte
  /-- DIN, oldest byte first (R34). -/
  din : List Byte
  /-- DOUT, oldest byte first (R34). -/
  dout : List Byte
  /-- The command in hold (R230), if one is (log entry 4). -/
  held : Option Instr
  /-- The environment (log entries 1 and 2). -/
  env : Env
  deriving DecidableEq, Repr

/-- What stops the machine for good. The spec names nothing of the kind: its four faults are taken by fault entry
(R243), a next state, and no bus access ever faults (R64, R223). So there is no constructor: raised by nobody; safe. -/
inductive Fault where
  deriving DecidableEq, Repr

/-- Runs the model says nothing about. -/
inductive Refusal where
  /-- An instruction without a meaning yet; raised by no arm of `exec`. Safe. -/
  | notModelled (mnemonic : String)
  /-- Raised by the bus (`State.busyRead`, `State.busyWrite`) for a host access the spec puts outside the contract
  while a command is in hold (R281, U18: refuse). Safe: nothing can be proved about such a run. -/
  | hostAccessInHold (addr : BitVec 12)
  deriving DecidableEq, Repr

/-- The machine right after reset: every register 0, every queue empty (R39, R270); no command in hold; an
environment that has presented nothing yet (log entries 1, 2). -/
def State.reset : State where
  keybits := 0
  pwlen := 0
  pw := Vector.replicate 32 0
  key := Vector.replicate 32 0
  w := Vector.replicate 60 zeroWord
  mat := Vector.replicate 4 (Vector.replicate 4 0)
  blkin := Vector.replicate 16 0
  blkout := Vector.replicate 16 0
  nonce := Vector.replicate 8 0
  ctr := 0
  inlen := 0
  outlen := 0
  arg := 0
  busy := false
  done := false
  fault := false
  nv := false
  ksz := .empty
  err := .noFault
  errop := 0
  errarg := 0
  din := []
  dout := []
  held := none
  env := { script := [], replies := [], clock := none, draws := 0 }

end Sys2Proof.Machine
end

