-- ==== Sys2Proof/Machine/Operands.lean ====
section
/-! DEFINITION. Operand ranges (30_encoding.md R92) and the quantities derived from KSZ (00_scope.md R15). -/

namespace Sys2Proof.Machine

/-- ADRK's operand is a round number some schedule has: 0..14 (R92). -/
def roundInRange (round : Byte) : Bool := decide (round.toNat ≤ 14)

/-- XORB's and CBLK's operand is a number of bytes in a block: 1..16 (R92). -/
def blockLenInRange (k : Byte) : Bool := decide (1 ≤ k.toNat ∧ k.toNat ≤ 16)

/-- B64E's operand is a number of bytes in a quantum: 1..3 (R92). -/
def quantumLenInRange (k : Byte) : Bool := decide (1 ≤ k.toNat ∧ k.toNat ≤ 3)

/-- B64D's operand is 0 (not the final quantum) or 1 (final quantum) (R92). -/
def finalFlagInRange (f : Byte) : Bool := decide (f.toNat ≤ 1)

/-- `Nk_s`: key length in words of the schedule W holds; 0 where W holds none (R15). -/
def Ksz.nk : Ksz → Nat
  | .empty => 0
  | .nk4 => 4
  | .nk6 => 6
  | .nk8 => 8

/-- `Nr_s = Nk_s + 6`, the number of rounds of the schedule W holds; 0 where W holds none (R15). -/
def Ksz.nr : Ksz → Nat
  | .empty => 0
  | .nk4 => 10
  | .nk6 => 12
  | .nk8 => 14

/-- `WLEN = 4·(Nr_s + 1)`, the number of valid words; 0 where W holds no schedule (R15). -/
def Ksz.wlen : Ksz → Nat
  | .empty => 0
  | .nk4 => 44
  | .nk6 => 52
  | .nk8 => 60

/-- The valid words `W[0..WLEN-1]` (R24). -/
def State.schedule (s : State) : List Word := s.w.toList.take s.ksz.wlen

end Sys2Proof.Machine
end

