-- ==== Sys2Proof/Config.lean ====
section
/-! DEFINITION. The free values of the model: what the spec leaves to the environment or does not state. None has a
body, so no proof can rest on a particular value. The spec's open parameters QCAP (reference value: unbounded, log
entry 6) and CYCLES (used by no rule, R291) need no constant. -/

namespace Sys2Proof

/-- FREE VALUE (log entry 2): the value on the port CLK_SEC at the n-th clock sample (R11, R253, U9: any value). -/
opaque Config.clockSec : Nat → BitVec 64

/-- FREE VALUE (log entry 2): the value on the port CLK_MS at the n-th clock sample (R11, R253, U9: any value). -/
opaque Config.clockMs : Nat → BitVec 10

/-- FREE VALUE (log entry 3): what a 64-bit count register (OUTLEN, DINCNT, DOUTCNT) holds for a count of 2^64 or
more, for which the spec states no value. -/
opaque Config.wideCount : Nat → BitVec 64

end Sys2Proof
end

