-- ==== Sys2Proof/WellFormed.lean ====
section
/-! DEFINITION. Which commands are legal: the "legal range" column of 30_encoding.md R92. (An operand outside its
range is not refused by the model: the command takes the fault IllegalCommand, R94(c).) -/

namespace Sys2Proof

/-- The command's operand lies in the legal range of R92; commands without an operand are always well formed. -/
def Instr.wf : Instr → Bool
  | .adrk round => decide (round.toNat ≤ 14)
  | .xorb k => decide (1 ≤ k.toNat ∧ k.toNat ≤ 16)
  | .cblk k => decide (1 ≤ k.toNat ∧ k.toNat ≤ 16)
  | .b64e k => decide (1 ≤ k.toNat ∧ k.toNat ≤ 3)
  | .b64d f => decide (f.toNat ≤ 1)
  | .nop | .srst | .kexp | .ldst | .subb | .shrw | .mixc | .stst | .encb | .pwbk | .drvk | .gnnc | .ldnc | .emnc
  | .ctrb | .encr | .decr | .b64em | .b64dm => true

end Sys2Proof
end

