-- ==== Sys2Proof/Decode.lean ====
section
/-! DEFINITION. Command words (30_encoding.md R90 to R94): the decoder, total on every pair of bytes and rejecting by
name; then the encoder and the legality predicate of R94. A command word is OP (bits 15:8, the byte written to CMD) and
ARG (bits 7:0, the register ARG at that moment). -/

namespace Sys2Proof

/-- Why a command word selects no row of the opcode map (R94 (a) and (b)). -/
inductive Reject where
  /-- OP is none of the 24 opcodes. -/
  | reservedOp (op : Byte)
  /-- A format-Z opcode with ARG ≠ 0. -/
  | argNotZero (op arg : Byte)
  deriving DecidableEq, Repr

/-- Format Z (R91): ARG must be 0x00. -/
def formatZ (op arg : Byte) (i : Instr) : Except Reject Instr :=
  if arg = 0 then .ok i else .error (.argNotZero op arg)

/-- The decoder test of R91 on each row of R93: format Z compares the whole word, formats A and X the OP byte only.
The range of a format-A operand is checked by the command's own rule (R91, R92; log entry 7). -/
def decode (op arg : Byte) : Except Reject Instr :=
  match op with
  | 0x00 => formatZ op arg .nop
  | 0x01 => .ok .srst
  | 0x10 => formatZ op arg .kexp
  | 0x20 => formatZ op arg .ldst
  | 0x21 => formatZ op arg .subb
  | 0x22 => formatZ op arg .shrw
  | 0x23 => formatZ op arg .mixc
  | 0x24 => .ok (.adrk arg)
  | 0x25 => formatZ op arg .stst
  | 0x28 => formatZ op arg .encb
  | 0x30 => formatZ op arg .pwbk
  | 0x31 => formatZ op arg .drvk
  | 0x32 => formatZ op arg .gnnc
  | 0x33 => formatZ op arg .ldnc
  | 0x34 => formatZ op arg .emnc
  | 0x35 => formatZ op arg .ctrb
  | 0x36 => .ok (.xorb arg)
  | 0x37 => .ok (.cblk arg)
  | 0x38 => formatZ op arg .encr
  | 0x39 => formatZ op arg .decr
  | 0x40 => .ok (.b64e arg)
  | 0x41 => .ok (.b64d arg)
  | 0x42 => formatZ op arg .b64em
  | 0x43 => formatZ op arg .b64dm
  | _ => .error (.reservedOp op)

/-- The OP byte of a command word (R90: bits 15:8). -/
def wordOp (word : BitVec 16) : Byte := word.extractLsb' 8 8

/-- The ARG byte of a command word (R90: bits 7:0). -/
def wordArg (word : BitVec 16) : Byte := word.extractLsb' 0 8

/-- `word = (op << 8) | ARG` (R225). -/
def commandWord (op arg : Byte) : BitVec 16 := op.setWidth 16 <<< 8 ||| arg.setWidth 16

/-- The decoder on a whole command word. -/
def decodeWord (word : BitVec 16) : Except Reject Instr := decode (wordOp word) (wordArg word)

/-- The opcode of a command (column OP of R93). -/
def Instr.op : Instr → Byte
  | .nop => 0x00
  | .srst => 0x01
  | .kexp => 0x10
  | .ldst => 0x20
  | .subb => 0x21
  | .shrw => 0x22
  | .mixc => 0x23
  | .adrk _ => 0x24
  | .stst => 0x25
  | .encb => 0x28
  | .pwbk => 0x30
  | .drvk => 0x31
  | .gnnc => 0x32
  | .ldnc => 0x33
  | .emnc => 0x34
  | .ctrb => 0x35
  | .xorb _ => 0x36
  | .cblk _ => 0x37
  | .encr => 0x38
  | .decr => 0x39
  | .b64e _ => 0x40
  | .b64d _ => 0x41
  | .b64em => 0x42
  | .b64dm => 0x43

/-- The ARG byte of a command: its operand in format A, 0x00 in formats Z and X (R91, R96). -/
def Instr.operand : Instr → Byte
  | .adrk round => round
  | .xorb k => k
  | .cblk k => k
  | .b64e k => k
  | .b64d f => f
  | .nop | .srst | .kexp | .ldst | .subb | .shrw | .mixc | .stst | .encb | .pwbk | .drvk | .gnnc | .ldnc | .emnc
  | .ctrb | .encr | .decr | .b64em | .b64dm => 0x00

/-- The command word of a command (R90). -/
def encode (i : Instr) : BitVec 16 := commandWord i.op i.operand

/-- The opcodes of format Z (column "format" of R93). -/
def formatZOps : List Byte :=
  [0x00, 0x10, 0x20, 0x21, 0x22, 0x23, 0x25, 0x28, 0x30, 0x31, 0x32, 0x33, 0x34, 0x35, 0x38, 0x39, 0x42, 0x43]

/-- The words that are legal by R94: a format-Z opcode with ARG = 0, SRST with any ARG, or a format-A opcode with its
operand in the range of R92. Every other word is IllegalCommand. -/
def legalWord (op arg : Byte) : Bool :=
  (formatZOps.contains op && arg == 0) || op == 0x01
    || (op == 0x24 && decide (arg.toNat ≤ 14))
    || ((op == 0x36 || op == 0x37) && decide (1 ≤ arg.toNat ∧ arg.toNat ≤ 16))
    || (op == 0x40 && decide (1 ≤ arg.toNat ∧ arg.toNat ≤ 3))
    || (op == 0x41 && decide (arg.toNat ≤ 1))

/-- The command the decoder reads from a table word: bit 0 is the word's least significant bit; the bits above `nbits`
are 0. -/
def decodeTableWord (nbits w : Nat) : Option Instr :=
  (decodeWord (BitVec.ofNat 16 (w % 2 ^ nbits))).toOption

end Sys2Proof
end

