-- ==== Sys2Proof/Machine/Ops.lean ====
section
/-! DEFINITION. The shared operations of the commands: acceptance, completion, fault entry (the one operation by which
every fault is taken) and the reset that is the only way out of the fault state, hold, the queues, the clock sample. -/

namespace Sys2Proof.Machine

/-- What a command answers. -/
abbrev Result := Host.Outcome State Fault Refusal

/-- What a 64-bit count register holds for the count `n` (R33, R34); a free value where `n` does not fit (log entry 3). -/
def count64 (n : Nat) : BitVec 64 := if n < 2 ^ 64 then BitVec.ofNat 64 n else Config.wideCount n

/-- A command is accepted: BUSY ← 1, DONE ← 0 (R225). -/
def State.accept (s : State) : State := { s with busy := true, done := false }

/-- A command completes having pushed `n` bytes: OUTLEN ← n, DONE ← 1, BUSY ← 0 (R30, R33, R225); it is no longer in
hold. -/
def State.complete (n : Nat) (s : State) : State :=
  { s with outlen := count64 n, done := true, busy := false, held := none }

/-- Fault entry with code `e` for the command word `op`, `arg` (R243): the record, FAULT ← 1, DONE ← 0, BUSY ← 0,
OUTLEN ← 0 and nothing else; the command is no longer in hold. -/
def State.faultEntry (e : ErrCode) (op arg : Byte) (s : State) : State :=
  { s with err := e, errop := op, errarg := arg, fault := true, done := false, busy := false, outlen := 0, held := none }

/-- `raise e` in the rule of command `i`: fault entry with the word of that command (R14, R243). -/
def State.raise (e : ErrCode) (i : Instr) (s : State) : Result := .next (s.faultEntry e i.op i.operand)

/-- Every item of R39 takes its reset value; the environment is not state of LSCORE and stays (R222, R270). This is
SRST, hardware reset, and so the only exit from the fault state (R248, R271). -/
def State.toReset (s : State) : State := { State.reset with env := s.env }

/-- The command `i` goes into, or stays in, hold: BUSY = 1, DONE = 0, nothing else changes (R230). -/
def State.enterHold (i : Instr) (s : State) : State := { s with busy := true, done := false, held := some i }

/-- `hold until |DIN| >= n` in the rule of command `i`, followed by the rest of the rule (R230). -/
def State.holdUntil (n : Nat) (i : Instr) (body : State → Result) (s : State) : Result :=
  if n ≤ s.din.length then body s else .next (s.enterHold i)

/-- The oldest `n` bytes of DIN, looked at and not removed (R229). -/
def State.peekIn (n : Nat) (s : State) : List Byte := s.din.take n

/-- Remove the oldest `n` bytes of DIN (R229). -/
def State.dropIn (n : Nat) (s : State) : State := { s with din := s.din.drop n }

/-- Append a byte string to DOUT, index 0 first (R14, R229). -/
def State.pushOut (x : List Byte) (s : State) : State := { s with dout := s.dout ++ x }

/-- What the clock ports present at this moment: the pinned values, else the free values of this sample (R253, log
entry 2). -/
def State.clockPins (s : State) : ClockPins :=
  match s.env.clock with
  | some p => p
  | none => { sec := Config.clockSec s.env.draws, ms := Config.clockMs s.env.draws }

/-- One clock sample has been taken. -/
def State.countSample (s : State) : State := { s with env := { s.env with draws := s.env.draws + 1 } }

end Sys2Proof.Machine
end

