-- ==== Sys2Proof/Machine/Base64.lean ====
section
/-! DEFINITION. The commands of the unit B64 (44_base64.md R201 to R204). -/

namespace Sys2Proof.Machine

/-- Consume `n` bytes of DIN, push `x`, complete (R201 to R204). -/
def State.replaceIn (n : Nat) (x : List Byte) (s : State) : Result :=
  .next (((s.dropIn n).pushOut x).complete x.length)

/-- B64E k (R201): one quantum, OUTLEN ← 4. -/
def execB64e (k : Byte) (s : State) : Result :=
  if quantumLenInRange k then
    s.holdUntil k.toNat (.b64e k) fun s =>
      .next (((s.dropIn k.toNat).pushOut (encQ (s.peekIn k.toNat))).complete 4)
  else s.raise .illegalCommand (.b64e k)

/-- DecQ on the four oldest characters (R202). -/
def decHead (final : Bool) : List Byte → Option (List Byte)
  | c0 :: c1 :: c2 :: c3 :: _ => decQ c0 c1 c2 c3 final
  | [] => none
  | [_] => none
  | [_, _] => none
  | [_, _, _] => none

/-- B64D f (R202). -/
def execB64d (f : Byte) (s : State) : Result :=
  if finalFlagInRange f then
    s.holdUntil 4 (.b64d f) fun s =>
      match decHead (f == 1) (s.peekIn 4) with
      | none => s.raise .malformedEnvelope (.b64d f)
      | some x => s.replaceIn 4 x
  else s.raise .illegalCommand (.b64d f)

/-- B64EM (R203): OUTLEN ← 4·ceil(n/3). -/
def execB64em (s : State) : Result :=
  s.holdUntil s.inlen.toNat .b64em fun s =>
    .next (((s.dropIn s.inlen.toNat).pushOut (b64Enc (s.peekIn s.inlen.toNat))).complete
      (4 * ceilDiv s.inlen.toNat 3))

/-- B64DM (R204). -/
def execB64dm (s : State) : Result :=
  s.holdUntil s.inlen.toNat .b64dm fun s =>
    match b64Dec (s.peekIn s.inlen.toNat) with
    | none => s.raise .malformedEnvelope .b64dm
    | some x => s.replaceIn s.inlen.toNat x

end Sys2Proof.Machine
end

