-- ==== Sys2Proof/Machine/Control.lean ====
section
/-! DEFINITION. The control commands (45_control_and_host.md R221, R222). -/

namespace Sys2Proof.Machine

/-- NOP: OUTLEN ← 0, DONE ← 1 (R221). -/
def execNop (s : State) : Result := .next (s.complete 0)

/-- SRST: every item of R39 takes its reset value, DONE included (R222). -/
def execSrst (s : State) : Result := .next s.toReset

end Sys2Proof.Machine
end

