-- ==== Sys2Proof/Machine/Tables.lean ====
section
/-! DEFINITION. The tables unit TAB (40_gf_tables.md): doubling in GF(2^8), SBOX, RCON and the word functions of the
key schedule. -/

namespace Sys2Proof.Machine

/-- `xtime(a)`: doubling modulo 0x11B; the test is on bit 7 before the shift (R111). -/
def xtime (a : Byte) : Byte := (a <<< 1) ^^^ (if a &&& 0x80 = 0 then 0x00 else 0x1B)

/-- One step of `gmul`: accumulate `a` if bit `bit` of `b` is set, then double `a` (R112). -/
def gmulStep (b : Byte) (acc : Byte × Byte) (bit : Nat) : Byte × Byte :=
  (if b.getLsbD bit then acc.1 ^^^ acc.2 else acc.1, xtime acc.2)

/-- General multiplication in the field; used to state the tables, by no command (R112). -/
def gmul (a b : Byte) : Byte := ((List.range 8).foldl (gmulStep b) (0, a)).1

/-- The table of R113, one number per row `0x .. Fx`, its sixteen bytes written left to right as columns `x0 .. xF`. -/
def sboxRows : List (BitVec 128) :=
  [0x637C777BF26B6FC53001672BFED7AB76,
   0xCA82C97DFA5947F0ADD4A2AF9CA472C0,
   0xB7FD9326363FF7CC34A5E5F171D83115,
   0x04C723C31896059A071280E2EB27B275,
   0x09832C1A1B6E5AA0523BD6B329E32F84,
   0x53D100ED20FCB15B6ACBBE394A4C58CF,
   0xD0EFAAFB434D338545F9027F503C9FA8,
   0x51A3408F929D38F5BCB6DA2110FFF3D2,
   0xCD0C13EC5F974417C4A77E3D645D1973,
   0x60814FDC222A908846EEB814DE5E0BDB,
   0xE0323A0A4906245CC2D3AC629195E479,
   0xE7C8376D8DD54EA96C56F4EA657AAE08,
   0xBA78252E1CA6B4C6E8DD741F4BBD8B8A,
   0x703EB5664803F60E613557B986C11D9E,
   0xE1F8981169D98E949B1E87E9CE5528DF,
   0x8CA1890DBFE6426841992D0FB054BB16]

/-- `SBOX[a]`: row = high hex digit of `a`, column = low hex digit (R113). -/
def sbox (a : Byte) : Byte := beByte (sboxRows.getD (a.toNat / 16) 0) 16 (a.toNat % 16)

/-- Byte 0 of `RCON[0..10]`; entry 0 is zero and never indexed by a command (R115). -/
def rconBytes : List Byte := [0x00, 0x01, 0x02, 0x04, 0x08, 0x10, 0x20, 0x40, 0x80, 0x1B, 0x36]

/-- `RCON[r]`: the constant in byte 0, bytes 1..3 zero (R115). -/
def rcon (r : Nat) : Word := #v[rconBytes.getD r 0, 0, 0, 0]

/-- `RotWord([w0, w1, w2, w3]) = [w1, w2, w3, w0]` (R117). -/
def rotWord (w : Word) : Word := #v[w[1], w[2], w[3], w[0]]

/-- `SubWord`: SBOX on each byte (R118). -/
def subWord (w : Word) : Word := #v[sbox w[0], sbox w[1], sbox w[2], sbox w[3]]

/-- `XorWord`: XOR byte by byte (R119). -/
def xorWord (u v : Word) : Word := #v[u[0] ^^^ v[0], u[1] ^^^ v[1], u[2] ^^^ v[2], u[3] ^^^ v[3]]

end Sys2Proof.Machine
end

