-- ==== Sys2Proof/Machine/Cipher.lean ====
section
/-! DEFINITION. The pure functions of the units KS and BLK: the key expansion (41_key_schedule.md R130), the functions
on a State (42_block_cipher.md R140) and the block encryption as a function (R147). -/

namespace Sys2Proof.Machine

/-- Word `i` of a schedule. -/
def wordAt (w : Schedule) (i : Nat) : Word := w.getD i zeroWord

/-- Word `i` of a key: its bytes 4i .. 4i+3 (R130, R67). -/
def keyWord (key : List Byte) (i : Nat) : Word :=
  #v[key.getD (4 * i) 0, key.getD (4 * i + 1) 0, key.getD (4 * i + 2) 0, key.getD (4 * i + 3) 0]

/-- The word `t` XORed into `w[i-Nk]`, from the previous word `w[i-1]` (R130). -/
def scheduleTemp (nk i : Nat) (prev : Word) : Word :=
  if i % nk = 0 then xorWord (subWord (rotWord prev)) (rcon (i / nk))
  else if nk > 6 ∧ i % nk = 4 then subWord prev
  else prev

/-- One turn of the loop of R130: append word `i`. -/
def expandStep (nk : Nat) (w : Schedule) (i : Nat) : Schedule :=
  w ++ [xorWord (wordAt w (i - nk)) (scheduleTemp nk i (wordAt w (i - 1)))]

/-- Number of words of the schedule for a key of `nk` words: `4·(Nr+1)` with `Nr = Nk + 6` (R130). -/
def scheduleLength (nk : Nat) : Nat := 4 * (nk + 6 + 1)

/-- `Expand(key)` for a key of 16, 24 or 32 bytes (R130). -/
def expand (key : List Byte) : Schedule :=
  let nk := key.length / 4
  (List.range' nk (scheduleLength nk - nk)).foldl (expandStep nk) ((List.range nk).map (keyWord key))

/-- A State given by its entries, `f r c` in row r, column c. -/
def matOf (f : Fin 4 → Fin 4 → Byte) : Mat := Vector.ofFn fun r => Vector.ofFn fun c => f r c

/-- `T[r][c]`. -/
def cell (t : Mat) (r c : Fin 4) : Byte := (t.get r).get c

/-- `Load(b)[r][c] = b[r + 4c]` (R140, R66). -/
def loadMat (b : Block) : Mat := matOf fun r c => byteAt b (r.val + 4 * c.val)

/-- Entry of a State by natural-number row and column, each taken mod 4. -/
def cellMod (t : Mat) (r c : Nat) : Byte := cell t (Fin.ofNat 4 r) (Fin.ofNat 4 c)

/-- `Store(T)[i] = T[i mod 4][i div 4]` (R140). -/
def storeMat (t : Mat) : Block := Vector.ofFn fun i => cellMod t (i.val % 4) (i.val / 4)

/-- `SubBytes(T)[r][c] = SBOX[T[r][c]]` (R140). -/
def subBytes (t : Mat) : Mat := matOf fun r c => sbox (cell t r c)

/-- `ShiftRows(T)[r][c] = T[r][(c + r) mod 4]` (R140). -/
def shiftRows (t : Mat) : Mat := matOf fun r c => cell t r (c + r)

/-- One output byte of a MixColumns column with original bytes `a r` (R140, R144). -/
def mixByte (a : Fin 4 → Byte) : Fin 4 → Byte
  | 0 => xtime (a 0) ^^^ a 1 ^^^ xtime (a 1) ^^^ a 2 ^^^ a 3
  | 1 => a 0 ^^^ xtime (a 1) ^^^ a 2 ^^^ xtime (a 2) ^^^ a 3
  | 2 => a 0 ^^^ a 1 ^^^ xtime (a 2) ^^^ a 3 ^^^ xtime (a 3)
  | 3 => a 0 ^^^ xtime (a 0) ^^^ a 1 ^^^ a 2 ^^^ xtime (a 3)

/-- `MixColumns(T)`: each column from its own original bytes (R140, R144). -/
def mixColumns (t : Mat) : Mat := matOf fun r c => mixByte (fun r' => cell t r' c) r

/-- `AddRoundKey(T, w, round)[r][c] = T[r][c] ^ w[4·round + c][r]` (R140). -/
def addRoundKey (t : Mat) (w : Schedule) (round : Nat) : Mat :=
  matOf fun r c => cell t r c ^^^ (wordAt w (4 * round + c.val)).get r

/-- One middle round of R147: SubBytes, ShiftRows, MixColumns, AddRoundKey. -/
def cipherRound (w : Schedule) (t : Mat) (round : Nat) : Mat :=
  addRoundKey (mixColumns (shiftRows (subBytes t))) w round

/-- The final State of the block encryption with `nr` rounds (R147, steps 1 to 4). -/
def cipherMat (nr : Nat) (w : Schedule) (b : Block) : Mat :=
  let middle := (List.range' 1 (nr - 1)).foldl (cipherRound w) (addRoundKey (loadMat b) w 0)
  addRoundKey (shiftRows (subBytes middle)) w nr

/-- `EncryptBlock(b, w)` for a schedule of `4·(Nr+1)` words (R147). -/
def encryptBlock (b : Block) (w : Schedule) : Block := storeMat (cipherMat (w.length / 4 - 1) w b)

end Sys2Proof.Machine
end

