-- ==== Sys2Proof/Machine/Block.lean ====
section
/-! DEFINITION. The unit BLK (42_block_cipher.md): the effects of the micro-operations on the register S, without their
DONE and OUTLEN write, then the commands. -/

namespace Sys2Proof.Machine

/-- Effect of LDST: `S[r][c] ← BLKIN[r + 4c]` (R141). -/
def State.loadS (s : State) : State := { s with mat := loadMat s.blkin }

/-- Effect of SUBB (R142). -/
def State.subS (s : State) : State := { s with mat := subBytes s.mat }

/-- Effect of SHRW (R143). -/
def State.shiftS (s : State) : State := { s with mat := shiftRows s.mat }

/-- Effect of MIXC (R144). -/
def State.mixS (s : State) : State := { s with mat := mixColumns s.mat }

/-- Effect of ADRK: `S[r][c] ← S[r][c] ^ W[4·round + c][r]` (R145). -/
def State.addKeyS (round : Nat) (s : State) : State := { s with mat := addRoundKey s.mat s.w.toList round }

/-- Effect of STST: `BLKOUT[i] ← S[i mod 4][i div 4]` (R146). -/
def State.storeS (s : State) : State := { s with blkout := storeMat s.mat }

/-- One middle round of ENCB: SUBB; SHRW; MIXC; ADRK round (R147). -/
def State.roundS (s : State) (round : Nat) : State := s.subS.shiftS.mixS.addKeyS round

/-- Effect of ENCB: LDST; ADRK 0; the rounds 1 .. Nr-1; SUBB; SHRW; ADRK Nr; STST, with Nr from KSZ (R147). -/
def State.encipher (s : State) : State :=
  let middle := (List.range' 1 (s.ksz.nr - 1)).foldl State.roundS (s.loadS.addKeyS 0)
  (middle.subS.shiftS.addKeyS s.ksz.nr).storeS

/-- LDST (R141). -/
def execLdst (s : State) : Result := .next (s.loadS.complete 0)

/-- SUBB (R142). -/
def execSubb (s : State) : Result := .next (s.subS.complete 0)

/-- SHRW (R143). -/
def execShrw (s : State) : Result := .next (s.shiftS.complete 0)

/-- MIXC (R144). -/
def execMixc (s : State) : Result := .next (s.mixS.complete 0)

/-- ADRK round (R145): first the operand's range, then the schedule. -/
def execAdrk (round : Byte) (s : State) : Result :=
  if roundInRange round then
    if s.ksz = .empty ∨ round.toNat > s.ksz.nr then s.raise .sequenceError (.adrk round)
    else .next ((s.addKeyS round.toNat).complete 0)
  else s.raise .illegalCommand (.adrk round)

/-- STST (R146). -/
def execStst (s : State) : Result := .next (s.storeS.complete 0)

/-- ENCB (R147). -/
def execEncb (s : State) : Result :=
  if s.ksz = .empty then s.raise .sequenceError .encb else .next (s.encipher.complete 0)

end Sys2Proof.Machine
end

