-- ==== Sys2Proof/Machine/Flags.lean ====
section
/-! DEFINITION. The codes software reads in STATUS and ERR (10_state.md R30, R31), the flag KSZ that KEXP sets, and the
count registers. LSCORE has no condition codes. -/

namespace Sys2Proof.Machine

/-- The two bits of STATUS.KSZ (R30). -/
def Ksz.code : Ksz → BitVec 2
  | .empty => 0
  | .nk4 => 1
  | .nk6 => 2
  | .nk8 => 3

/-- KSZ for a schedule of a key of `nk` words (R131); only 4, 6 and 8 occur. -/
def kszOf (nk : Nat) : Ksz :=
  if nk = 4 then .nk4 else if nk = 6 then .nk6 else if nk = 8 then .nk8 else .empty

/-- The value of the register ERR (R240). -/
def ErrCode.code : ErrCode → Byte
  | .noFault => 0
  | .invalidKeySize => 1
  | .malformedEnvelope => 2
  | .illegalCommand => 3
  | .sequenceError => 4

/-- The STATUS byte: bits 7:6 zero, 5:4 KSZ, 3 NV, 2 FAULT, 1 DONE, 0 BUSY (R30). -/
def State.status (s : State) : Byte :=
  0#2 ++ s.ksz.code ++ BitVec.ofBool s.nv ++ BitVec.ofBool s.fault ++ BitVec.ofBool s.done ++ BitVec.ofBool s.busy

/-- DINCNT = |DIN| (R34). -/
def State.dincnt (s : State) : BitVec 64 := count64 s.din.length

/-- DOUTCNT = |DOUT| (R34). -/
def State.doutcnt (s : State) : BitVec 64 := count64 s.dout.length

end Sys2Proof.Machine
end

