-- ==== Sys2Proof/Machine/Message.lean ====
section
/-! DEFINITION. The reference functions of the unit CTR (43_ctr_engine.md R160, R171) as pure functions on byte
strings. -/

namespace Sys2Proof.Machine

/-- `legal(KEYBITS)` (R15): tested on the full 16-bit value (R241). -/
def legalKeybits (keybits : BitVec 16) : Bool := keybits == 128 || keybits == 192 || keybits == 256

/-- `N = KEYBITS div 8` (R15). -/
def keyBytes (keybits : BitVec 16) : Nat := keybits.toNat / 8

/-- `PwBlock(pw, N)`: zero-padded or truncated to N bytes (R160). -/
def pwBlock (pw : List Byte) (n : Nat) : List Byte := (List.range n).map fun i => pw.getD i 0

/-- `DeriveKey(pw, N) = c ++ c[0 : N-16]` with `c` the first 16 bytes of the password block encrypted under the whole
password block (R160, D12). -/
def deriveKey (pw : List Byte) (n : Nat) : List Byte :=
  let p := pwBlock pw n
  let c := (encryptBlock (arrayOf 16 (p.take 16)) (expand p)).toList
  c ++ c.take (n - 16)

/-- `NonceOf(sec, ms) = be32(sec mod 2^32) ++ be32(ms)` (R160, R68). -/
def nonceOf (sec : BitVec 64) (ms : BitVec 10) : Vector Byte 8 :=
  arrayOf 8 (be32 (low32 sec) ++ be32 (ms.setWidth 32))

/-- `CounterBlock(n8, b) = n8 ++ be32(b >> 32) ++ be32(b mod 2^32)` (R160, R69). -/
def counterBlock (n8 : Vector Byte 8) (b : BitVec 64) : Block :=
  arrayOf 16 (n8.toList ++ (be32 (high32 b) ++ be32 (low32 b)))

/-- `Keystream(w, n8, b)` (R160). -/
def keystream (w : Schedule) (n8 : Vector Byte 8) (b : BitVec 64) : Block := encryptBlock (counterBlock n8 b) w

/-- `CtrXor(w, n8, x)[i] = x[i] ^ Keystream(w, n8, i div 16)[i mod 16]` (R160). -/
def ctrXor (w : Schedule) (n8 : Vector Byte 8) (x : List Byte) : List Byte :=
  x.mapIdx fun i b => b ^^^ byteAt (keystream w n8 (BitVec.ofNat 64 (i / 16))) (i % 16)

/-- `Encrypt(pt, pw, keyBits, sec, ms)`; `none` is "fail InvalidKeySize" (R171). -/
def encrypt (pt pw : List Byte) (keybits : BitVec 16) (sec : BitVec 64) (ms : BitVec 10) : Option (List Byte) :=
  if legalKeybits keybits then
    some (b64Enc ((nonceOf sec ms).toList
      ++ ctrXor (expand (deriveKey pw (keyBytes keybits))) (nonceOf sec ms) pt))
  else none

/-- `Decrypt(text, pw, keyBits)`; `none` is a failure, InvalidKeySize or MalformedEnvelope (R171). -/
def decrypt (text pw : List Byte) (keybits : BitVec 16) : Option (List Byte) :=
  if legalKeybits keybits then
    match b64Dec text with
    | none => none
    | some e =>
      if e.length < 8 then none
      else some (ctrXor (expand (deriveKey pw (keyBytes keybits))) (arrayOf 8 e) (e.drop 8))
  else none

end Sys2Proof.Machine
end

