-- ==== Sys2Proof/Machine/KeySchedule.lean ====
section
/-! DEFINITION. The unit KS: KEXP (41_key_schedule.md R131). -/

namespace Sys2Proof.Machine

/-- `N = KEYBITS div 8` (R15). -/
def State.keyLen (s : State) : Nat := keyBytes s.keybits

/-- The effect of KEXP on W and KSZ: `W[i] ← Expand(KEY[0:N])[i]` for `i < 4·(Nr+1)`, the other words kept (R131). -/
def State.expandKey (s : State) : State :=
  let ws := expand (s.key.toList.take s.keyLen)
  { s with w := Vector.ofFn fun i => ws.getD i.val (s.w.get i), ksz := kszOf (s.keyLen / 4) }

/-- KEXP (R131). -/
def execKexp (s : State) : Result :=
  if legalKeybits s.keybits then .next (s.expandKey.complete 0)
  else s.raise .invalidKeySize .kexp

end Sys2Proof.Machine
end

