-- ==== Sys2Proof/Machine/Ctr.lean ====
section
/-! DEFINITION. The unit CTR (43_ctr_engine.md R161 to R170): the effects of its steps, then the commands. -/

namespace Sys2Proof.Machine

/-- Effect of PWBK: `KEY[i] ← PW[i]` if `i < N` and `i < PWLEN`, else 0x00 (R161). -/
def State.formPwBlock (s : State) : State :=
  { s with key := Vector.ofFn fun i => if i.val < s.keyLen ∧ i.val < s.pwlen.toNat then s.pw.get i else 0 }

/-- `BLKIN[i] ← KEY[i]` for i = 0..15 (R162). -/
def State.keyToBlkin (s : State) : State := { s with blkin := arrayOf 16 s.key.toList }

/-- `KEY[i] ← BLKOUT[i]`, `KEY[16+j] ← BLKOUT[j]` for j < N-16, `KEY[i] ← 0x00` for i ≥ N (R162). -/
def State.blkoutToKey (s : State) : State :=
  { s with key := Vector.ofFn fun i => if i.val < s.keyLen then byteAt s.blkout (i.val % 16) else 0 }

/-- Effect of DRVK: PWBK; KEXP; BLKIN ← KEY; ENCB; KEY ← extended BLKOUT; KEXP (R162). -/
def State.deriveKey (s : State) : State :=
  s.formPwBlock.expandKey.keyToBlkin.encipher.blkoutToKey.expandKey

/-- Effect of GNNC: NONCE from one clock sample, CTR ← 0, NV ← 1 (R163). -/
def State.genNonce (s : State) : State :=
  { s.countSample with nonce := nonceOf s.clockPins.sec s.clockPins.ms, ctr := 0, nv := true }

/-- NONCE ← eight bytes, CTR ← 0, NV ← 1 (R164, R170). -/
def State.loadNonce (x : List Byte) (s : State) : State := { s with nonce := arrayOf 8 x, ctr := 0, nv := true }

/-- Effect of CTRB: BLKIN ← NONCE ++ be32(CTR >> 32) ++ be32(CTR mod 2^32) (R166). -/
def State.buildCounter (s : State) : State := { s with blkin := counterBlock s.nonce s.ctr }

/-- `CTR ← (CTR + 1) mod 2^64` (R29, R167). -/
def State.nextCounter (s : State) : State := { s with ctr := s.ctr + 1 }

/-- Effect of XORB k: k bytes of DIN XORed with BLKOUT to DOUT, CTR + 1 (R167). -/
def State.xorBlock (k : Nat) (s : State) : State :=
  ((s.dropIn k).pushOut (xorBytes (s.peekIn k) s.blkout.toList)).nextCounter

/-- The block loop of ENCR and DECR over `n` blocks of the byte string `x`: CTRB; ENCB; XOR; CTR + 1. Answers the state
and the bytes produced (R169, R170). -/
def State.cipherBlocks : Nat → List Byte → State → State × List Byte
  | 0, _, s => (s, [])
  | n + 1, x, s =>
    let s1 := s.buildCounter.encipher
    let r := State.cipherBlocks n (x.drop 16) s1.nextCounter
    (r.1, xorBytes (x.take 16) s1.blkout.toList ++ r.2)

/-- PWBK (R161). -/
def execPwbk (s : State) : Result :=
  if legalKeybits s.keybits then .next (s.formPwBlock.complete 0) else s.raise .invalidKeySize .pwbk

/-- DRVK (R162). -/
def execDrvk (s : State) : Result :=
  if legalKeybits s.keybits then .next (s.deriveKey.complete 0) else s.raise .invalidKeySize .drvk

/-- GNNC (R163). -/
def execGnnc (s : State) : Result := .next (s.genNonce.complete 0)

/-- LDNC (R164). -/
def execLdnc (s : State) : Result :=
  s.holdUntil 8 .ldnc fun s => .next (((s.dropIn 8).loadNonce (s.peekIn 8)).complete 0)

/-- EMNC (R165). -/
def execEmnc (s : State) : Result :=
  if s.nv then .next ((s.pushOut s.nonce.toList).complete 8) else s.raise .sequenceError .emnc

/-- CTRB (R166). -/
def execCtrb (s : State) : Result :=
  if s.nv then .next (s.buildCounter.complete 0) else s.raise .sequenceError .ctrb

/-- XORB k (R167). -/
def execXorb (k : Byte) (s : State) : Result :=
  if blockLenInRange k then
    s.holdUntil k.toNat (.xorb k) fun s => .next ((s.xorBlock k.toNat).complete k.toNat)
  else s.raise .illegalCommand (.xorb k)

/-- CBLK k: CTRB; ENCB; XORB k, every check and the hold first (R168). -/
def execCblk (k : Byte) (s : State) : Result :=
  if blockLenInRange k then
    if s.nv = false ∨ s.ksz = .empty then s.raise .sequenceError (.cblk k)
    else
      s.holdUntil k.toNat (.cblk k) fun s =>
        .next ((s.buildCounter.encipher.xorBlock k.toNat).complete k.toNat)
  else s.raise .illegalCommand (.cblk k)

/-- ENCR once its `n` plaintext bytes are present: GNNC; DRVK; the block loop; the envelope in base64 (R169). -/
def State.encryptMessage (n : Nat) (s : State) : Result :=
  let s1 := s.genNonce.deriveKey
  let r := State.cipherBlocks (ceilDiv n 16) (s.peekIn n) s1
  .next (((r.1.dropIn n).pushOut (b64Enc (s1.nonce.toList ++ r.2))).complete (4 * ceilDiv (8 + n) 3))

/-- ENCR (R169). -/
def execEncr (s : State) : Result :=
  if legalKeybits s.keybits then s.holdUntil s.inlen.toNat .encr (State.encryptMessage s.inlen.toNat)
  else s.raise .invalidKeySize .encr

/-- DECR on a decoded envelope `e` of at least 8 bytes: consume the `n` characters, load the nonce, DRVK, the block
loop over the ciphertext (R170). -/
def State.decryptEnvelope (n : Nat) (e : List Byte) (s : State) : Result :=
  let s1 := ((s.dropIn n).loadNonce e).deriveKey
  let r := State.cipherBlocks (ceilDiv (e.length - 8) 16) (e.drop 8) s1
  .next ((r.1.pushOut r.2).complete (e.length - 8))

/-- DECR once its `n` characters are present: the whole text is validated before anything is consumed (R170, R244). -/
def State.decryptMessage (n : Nat) (s : State) : Result :=
  match b64Dec (s.peekIn n) with
  | none => s.raise .malformedEnvelope .decr
  | some e => if e.length < 8 then s.raise .malformedEnvelope .decr else s.decryptEnvelope n e

/-- DECR (R170). -/
def execDecr (s : State) : Result :=
  if legalKeybits s.keybits then s.holdUntil s.inlen.toNat .decr (State.decryptMessage s.inlen.toNat)
  else s.raise .invalidKeySize .decr

end Sys2Proof.Machine
end

