-- ==== Sys2Proof/Machine/Dispatch.lean ====
section
/-! DEFINITION. The dispatch: one arm per command, each one call of its meaning. -/

namespace Sys2Proof.Machine

def exec (i : Instr) (s : State) : Host.Outcome State Fault Refusal :=
  match i with
  | .nop => Sys2Proof.Machine.execNop s
  | .srst => Sys2Proof.Machine.execSrst s
  | .kexp => Sys2Proof.Machine.execKexp s
  | .ldst => Sys2Proof.Machine.execLdst s
  | .subb => Sys2Proof.Machine.execSubb s
  | .shrw => Sys2Proof.Machine.execShrw s
  | .mixc => Sys2Proof.Machine.execMixc s
  | .adrk round => Sys2Proof.Machine.execAdrk round s
  | .stst => Sys2Proof.Machine.execStst s
  | .encb => Sys2Proof.Machine.execEncb s
  | .pwbk => Sys2Proof.Machine.execPwbk s
  | .drvk => Sys2Proof.Machine.execDrvk s
  | .gnnc => Sys2Proof.Machine.execGnnc s
  | .ldnc => Sys2Proof.Machine.execLdnc s
  | .emnc => Sys2Proof.Machine.execEmnc s
  | .ctrb => Sys2Proof.Machine.execCtrb s
  | .xorb k => Sys2Proof.Machine.execXorb k s
  | .cblk k => Sys2Proof.Machine.execCblk k s
  | .encr => Sys2Proof.Machine.execEncr s
  | .decr => Sys2Proof.Machine.execDecr s
  | .b64e k => Sys2Proof.Machine.execB64e k s
  | .b64d f => Sys2Proof.Machine.execB64d f s
  | .b64em => Sys2Proof.Machine.execB64em s
  | .b64dm => Sys2Proof.Machine.execB64dm s

end Sys2Proof.Machine
end

