-- ==== Sys2Proof/Machine/Map.lean ====
section
/-! DEFINITION. The register space (20_memory.md R62): the address map, and what a read and a plain register write do at
each address. Ports (CMD, DIN, DOUT) act in Machine/Bus.lean. -/

namespace Sys2Proof.Machine

/-- The names of the register space (column "name" of R62). -/
inductive Reg where
  | cmd | arg | status | err | errop | errarg | keybits | pwlen | din | dout | inlen | outlen | ctr | nonce
  | dincnt | doutcnt | pw | key | blkin | blkout | mat | rcon | sbox | w
  deriving DecidableEq, Repr

/-- One row of R62: base address, length in bytes, name. -/
structure Region where
  base : Nat
  len : Nat
  reg : Reg
  deriving DecidableEq, Repr

/-- The table of R62 without its reserved rows. -/
def addressMap : List Region :=
  [⟨0x000, 1, .cmd⟩, ⟨0x001, 1, .arg⟩, ⟨0x002, 1, .status⟩, ⟨0x003, 1, .err⟩, ⟨0x004, 1, .errop⟩, ⟨0x005, 1, .errarg⟩,
   ⟨0x006, 2, .keybits⟩, ⟨0x008, 1, .pwlen⟩, ⟨0x009, 1, .din⟩, ⟨0x00A, 1, .dout⟩, ⟨0x010, 8, .inlen⟩,
   ⟨0x018, 8, .outlen⟩, ⟨0x020, 8, .ctr⟩, ⟨0x028, 8, .nonce⟩, ⟨0x030, 8, .dincnt⟩, ⟨0x038, 8, .doutcnt⟩,
   ⟨0x040, 32, .pw⟩, ⟨0x060, 32, .key⟩, ⟨0x080, 16, .blkin⟩, ⟨0x090, 16, .blkout⟩, ⟨0x0A0, 16, .mat⟩,
   ⟨0x0C0, 44, .rcon⟩, ⟨0x100, 256, .sbox⟩, ⟨0x200, 240, .w⟩]

/-- The address lies in the region. -/
def Region.holds (a : Nat) (r : Region) : Bool := decide (r.base ≤ a ∧ a < r.base + r.len)

/-- The register an address belongs to and the byte's offset in it; `none` for a reserved address (R62). -/
def locate (a : Nat) : Option (Reg × Nat) := (addressMap.find? (Region.holds a)).map fun r => (r.reg, a - r.base)

/-- Byte `i` of the window on S, in serialized order: `S[i mod 4][i div 4]` (R66, R223). -/
def matByte (t : Mat) (i : Nat) : Byte :=
  byteAt (t.toList.getD (i % 4) (Vector.replicate 4 0)) (i / 4)

/-- What a read of byte `off` of a register returns, without its side effect (R62, R223): numeric registers big-endian
(R65), write-only registers 0x00 (R64). For DOUT it is the oldest byte, 0x00 if there is none (R227). -/
def State.regByte (s : State) (off : Nat) : Reg → Byte
  | .cmd => 0
  | .arg => s.arg
  | .status => s.status
  | .err => s.err.code
  | .errop => s.errop
  | .errarg => s.errarg
  | .keybits => beByte s.keybits 2 off
  | .pwlen => s.pwlen.setWidth 8
  | .din => 0
  | .dout => s.dout.headD 0
  | .inlen => beByte s.inlen 8 off
  | .outlen => beByte s.outlen 8 off
  | .ctr => beByte s.ctr 8 off
  | .nonce => byteAt s.nonce off
  | .dincnt => beByte s.dincnt 8 off
  | .doutcnt => beByte s.doutcnt 8 off
  | .pw => byteAt s.pw off
  | .key => byteAt s.key off
  | .blkin => byteAt s.blkin off
  | .blkout => byteAt s.blkout off
  | .mat => matByte s.mat off
  | .rcon => byteAt (Machine.rcon (off / 4)) (off % 4)
  | .sbox => Machine.sbox (BitVec.ofNat 8 off)
  | .w => byteAt (s.w.toList.getD (off / 4) zeroWord) (off % 4)

/-- The byte at an address of the register space; 0x00 at a reserved address (R64). -/
def State.readByte (s : State) (a : BitVec 12) : Byte :=
  match locate a.toNat with
  | some (reg, off) => s.regByte off reg
  | none => 0

/-- `min(v mod 64, 32)`, what a write of `v` to PWLEN stores (R228). -/
def clampPwlen (v : Byte) : BitVec 6 := BitVec.ofNat 6 (min (v.toNat % 64) 32)

/-- A write of `v` to byte `off` of a register (R224): read/write registers take it, PWLEN clamps (R228), read-only
registers ignore it (R64). The ports CMD and DIN are not plain registers and are served by the bus. -/
def State.writeReg (s : State) (off : Nat) (v : Byte) : Reg → State
  | .arg => { s with arg := v }
  | .keybits => { s with keybits := setBeByte s.keybits 2 off v }
  | .pwlen => { s with pwlen := clampPwlen v }
  | .inlen => { s with inlen := setBeByte s.inlen 8 off v }
  | .ctr => { s with ctr := setBeByte s.ctr 8 off v }
  | .pw => { s with pw := s.pw.setIfInBounds off v }
  | .key => { s with key := s.key.setIfInBounds off v }
  | .blkin => { s with blkin := s.blkin.setIfInBounds off v }
  | .cmd | .din | .status | .err | .errop | .errarg | .dout | .outlen | .nonce | .dincnt | .doutcnt | .blkout | .mat
  | .rcon | .sbox | .w => s

end Sys2Proof.Machine
end

