-- ==== Sys2Proof/Machine/Bus.lean ====
section
/-! DEFINITION. The host interface (45_control_and_host.md R223 to R230): host reads and writes, command issue, DIN
push, DOUT pop, the accesses allowed while a command is in hold (R281), and the events of the script. -/

namespace Sys2Proof.Machine

/-- Command issue, `MemWrite(0x000, 1, op)` (R225, R245). -/
def State.issue (op : Byte) (s : State) : Result :=
  if s.fault then
    if op = 0x01 then exec .srst s else .next s
  else
    match decode op s.arg with
    | .ok i => exec i s.accept
    | .error _ => .next (s.accept.faultEntry .illegalCommand op s.arg)

/-- DIN push, `MemWrite(0x009, 1, v)`; a command in hold looks at its condition again and runs to its end if it has
become true (R226, R230). -/
def State.pushIn (v : Byte) (s : State) : Result :=
  let s' := { s with din := s.din ++ [v] }
  match s'.held with
  | none => .next s'
  | some i => exec i s'

/-- The side effect of a read: at DOUT the oldest byte is removed (R227), elsewhere none (R223). -/
def State.readEffect (s : State) (a : BitVec 12) : State :=
  if a = 0x00A then { s with dout := s.dout.drop 1 } else s

/-- The byte a read returned is on the read data pins: it joins the host's record (log entry 1). -/
def State.reply (b : Byte) (s : State) : State := { s with env := { s.env with replies := s.env.replies ++ [b] } }

/-- Host register read, `MemRead(a, 1)` (R223). -/
def State.hostRead (a : BitVec 12) (s : State) : State := (s.readEffect a).reply (s.readByte a)

/-- Host register write, `MemWrite(a, 1, v)` (R224). -/
def State.hostWrite (a : BitVec 12) (v : Byte) (s : State) : Result :=
  match locate a.toNat with
  | some (.cmd, _) => s.issue v
  | some (.din, _) => s.pushIn v
  | some (reg, off) => .next (s.writeReg off v reg)
  | none => .next s

/-- The reads allowed while a command is in hold: STATUS, DINCNT, DOUTCNT, and the pop of DOUT (R230, R281). -/
def readableInHold (a : BitVec 12) : Bool :=
  match locate a.toNat with
  | some (reg, _) => reg == .status || reg == .dincnt || reg == .doutcnt || reg == .dout
  | none => false

/-- A host read while BUSY = 1: refused if it is outside the contract (R281). -/
def State.busyRead (a : BitVec 12) (s : State) : Result :=
  if readableInHold a then .next (s.hostRead a) else .refused (.hostAccessInHold a)

/-- A host write while BUSY = 1: only the DIN push is in the contract (R281). -/
def State.busyWrite (a : BitVec 12) (v : Byte) (s : State) : Result :=
  if a = 0x009 then s.pushIn v else .refused (.hostAccessInHold a)

/-- The clock source presents new values (R96). -/
def State.setClock (sec : BitVec 64) (ms : BitVec 10) (s : State) : State :=
  { s with env := { s.env with clock := some { sec := sec, ms := ms } } }

/-- What one event does (R11, R96, R223, R224, R270). -/
def State.serve (e : Event) (s : State) : Result :=
  match e with
  | .read a => if s.busy then s.busyRead a else .next (s.hostRead a)
  | .write a v => if s.busy then s.busyWrite a v else s.hostWrite a v
  | .clock sec ms => .next (s.setClock sec ms)
  | .reset => .next s.toReset

/-- The same state with the given events still to come. -/
def State.withScript (script : List Event) (s : State) : State := { s with env := { s.env with script := script } }

/-- The next event of the script is taken and served; with no event left nothing happens, LSCORE "does nothing by
itself" (R270, log entry 10). -/
def State.advance (s : State) : Result :=
  match s.env.script with
  | [] => .next s
  | e :: rest => (s.withScript rest).serve e

/-- The state in which the host's next action is the CMD write that issues the command word `op`, `arg`: ARG holds
`arg` and the write stands first in the script (R90, log entry 8). -/
def State.withIssue (op arg : Byte) (s : State) : State :=
  ({ s with arg := arg } : State).withScript (.write 0x000 op :: s.env.script)

end Sys2Proof.Machine
end

