-- ==== Sys2Proof/Machine/Step.lean ====
section
/-! DEFINITION. One step of the machine: one action of its surroundings and everything LSCORE does in answer (R75,
R280), and the placing of a command word as the next one to be issued. -/

namespace Sys2Proof.Machine

/-- One step. -/
def step (s : State) : Host.Outcome State Fault Refusal := s.advance

/-- `s` with the command word given by the low 16 of the `nbits` bits of `w` issued by the very next step (log entry 8). -/
def State.withFetchWord (s : State) (nbits w : Nat) : State :=
  s.withIssue (wordOp (BitVec.ofNat 16 (w % 2 ^ nbits))) (wordArg (BitVec.ofNat 16 (w % 2 ^ nbits)))

end Sys2Proof.Machine
end

