-- ==== Sys2Proof/Safety.lean ====
section
/-! DEFINITION. The terms claims are stated in: the causes of each fault and of a hold, written from 60_exceptions.md
(R240 to R247) and 45_control_and_host.md (R230) beside, not through, the meanings; the invariants of the machine; the
host contract (R281); command sequences. -/

namespace Sys2Proof.Machine

/-- The commands that look at KEYBITS (R240, R241). -/
def needsKeySize : Instr → Bool
  | .kexp | .pwbk | .drvk | .encr | .decr => true
  | .nop | .srst | .ldst | .subb | .shrw | .mixc | .adrk _ | .stst | .encb | .gnnc | .ldnc | .emnc | .ctrb | .xorb _
  | .cblk _ | .b64e _ | .b64d _ | .b64em | .b64dm => false

/-- What SequenceError finds missing (R242): a schedule, a round of it, or a nonce. -/
def sequenceBroken (s : State) : Instr → Bool
  | .encb => s.ksz == .empty
  | .adrk round => s.ksz == .empty || decide (round.toNat > s.ksz.nr)
  | .cblk _ => s.ksz == .empty || !s.nv
  | .emnc | .ctrb => !s.nv
  | .nop | .srst | .kexp | .ldst | .subb | .shrw | .mixc | .stst | .pwbk | .drvk | .gnnc | .ldnc | .xorb _ | .encr
  | .decr | .b64e _ | .b64d _ | .b64em | .b64dm => false

/-- The fault a command finds at issue, before any waiting, in the order of R247 (steps 2 to 4). -/
def faultAtIssue (i : Instr) (s : State) : Option ErrCode :=
  if i.wf = false then some .illegalCommand
  else if needsKeySize i = true ∧ legalKeybits s.keybits = false then some .invalidKeySize
  else if sequenceBroken s i = true then some .sequenceError
  else none

/-- The number of DIN bytes a command waits for (R230, the list at its end); 0 for a command that does not wait. -/
def inputNeeded (s : State) : Instr → Nat
  | .ldnc => 8
  | .xorb k => k.toNat
  | .cblk k => k.toNat
  | .encr | .decr | .b64em | .b64dm => s.inlen.toNat
  | .b64e k => k.toNat
  | .b64d _ => 4
  | .nop | .srst | .kexp | .ldst | .subb | .shrw | .mixc | .adrk _ | .stst | .encb | .pwbk | .drvk | .gnnc | .emnc
  | .ctrb => 0

/-- The text at the head of DIN is malformed for the command (R244), looked at once the input is present. -/
def inputMalformed (s : State) : Instr → Bool
  | .decr =>
    match b64Dec (s.din.take s.inlen.toNat) with
    | none => true
    | some e => decide (e.length < 8)
  | .b64dm => (b64Dec (s.din.take s.inlen.toNat)).isNone
  | .b64d f => (decHead (f == 1) (s.din.take 4)).isNone
  | .nop | .srst | .kexp | .ldst | .subb | .shrw | .mixc | .adrk _ | .stst | .encb | .pwbk | .drvk | .gnnc | .ldnc
  | .emnc | .ctrb | .xorb _ | .cblk _ | .encr | .b64e _ | .b64em => false

/-- What every state of a run satisfies about the control registers: PWLEN is clamped (R22); FAULT says ERR ≠ 0 (R30);
ERROP and ERRARG are 0 while ERR = 0 (R31); BUSY = 1 exactly while a command is in hold (R230, R280); DONE = 0 while a
command is in hold or a fault stands (R30); no command is in hold in the fault state and OUTLEN = 0 there (R243, R245). -/
def State.StatusInv (s : State) : Prop :=
  s.pwlen.toNat ≤ 32
  ∧ (s.fault = true ↔ s.err ≠ .noFault)
  ∧ (s.err = .noFault → s.errop = 0 ∧ s.errarg = 0)
  ∧ (s.busy = true ↔ s.held.isSome = true)
  ∧ (s.busy = true → s.done = false ∧ s.fault = false)
  ∧ (s.fault = true → s.done = false ∧ s.outlen = 0)

/-- A command in hold has passed its checks at issue and still lacks input (R230). -/
def State.HoldInv (s : State) : Prop :=
  ∀ i, s.held = some i → faultAtIssue i s = none ∧ s.din.length < inputNeeded s i

/-- The key words `W[0..Nk-1]` of the schedule W holds, as bytes (R130, R132). -/
def State.scheduleKey (s : State) : List Byte := (s.w.toList.take s.ksz.nk).flatMap Vector.toList

/-- W is what KEXP left: the expansion of its own first Nk words where KSZ says a schedule is held (R24, R30), and the
reset value where it says none; NONCE has its reset value where NV says none was loaded (R39). -/
def State.ScheduleInv (s : State) : Prop :=
  (s.ksz ≠ .empty → s.schedule = expand s.scheduleKey)
  ∧ (s.ksz = .empty → s.w = Vector.replicate 60 zeroWord)
  ∧ (s.nv = false → s.nonce = Vector.replicate 8 0)

/-- A host access the contract allows while BUSY = 1 (R281): a read of STATUS (0x002), DINCNT (0x030..0x037) or DOUTCNT
(0x038..0x03F), a DIN push (write of 0x009), a DOUT pop (read of 0x00A). The clock source and hardware reset are not
host accesses. -/
def Event.allowedInHold : Event → Bool
  | .read a => a == 0x002 || a == 0x00A || decide (0x030 ≤ a.toNat ∧ a.toNat ≤ 0x03F)
  | .write a _ => a == 0x009
  | .clock _ _ | .reset => true

/-- The reserved rows of the map of R62. -/
def reservedAddress (a : Nat) : Bool :=
  decide (0x00B ≤ a ∧ a ≤ 0x00F) || decide (0x0B0 ≤ a ∧ a ≤ 0x0BF) || decide (0x0EC ≤ a ∧ a ≤ 0x0FF)
    || decide (0x2F0 ≤ a ∧ a ≤ 0xFFF)

/-- The rows of the map of R62 with access R: STATUS, ERR, ERROP, ERRARG; DOUT; OUTLEN; NONCE, DINCNT, DOUTCNT;
BLKOUT, S; RCON; SBOX, W. -/
def readOnlyAddress (a : Nat) : Bool :=
  decide (0x002 ≤ a ∧ a ≤ 0x005) || a == 0x00A || decide (0x018 ≤ a ∧ a ≤ 0x01F) || decide (0x028 ≤ a ∧ a ≤ 0x03F)
    || decide (0x090 ≤ a ∧ a ≤ 0x0AF) || decide (0x0C0 ≤ a ∧ a ≤ 0x0EB) || decide (0x100 ≤ a ∧ a ≤ 0x2EF)

/-- The rows of the map of R62 with access RW whose write stores exactly the byte written (R73): ARG; KEYBITS; INLEN;
CTR; PW, KEY, BLKIN. (PWLEN clamps.) -/
def plainAddress (a : Nat) : Bool :=
  a == 0x001 || decide (0x006 ≤ a ∧ a ≤ 0x007) || decide (0x010 ≤ a ∧ a ≤ 0x017) || decide (0x020 ≤ a ∧ a ≤ 0x027)
    || decide (0x040 ≤ a ∧ a ≤ 0x08F)

/-- Commands performed one after the other, as far as each answers a next state. -/
def State.runCommands : List Instr → State → Result
  | [], s => .next s
  | i :: rest, s =>
    match exec i s with
    | .next t => State.runCommands rest t
    | .fault f => .fault f
    | .refused r => .refused r

/-- The micro-operations of one middle round as a host issues them (R147). -/
def roundCommands (round : Nat) : List Instr := [.subb, .shrw, .mixc, .adrk (BitVec.ofNat 8 round)]

/-- The host sequence of R147 that does what ENCB does for `nr` rounds. -/
def encbCommands (nr : Nat) : List Instr :=
  [.ldst, .adrk 0] ++ (List.range' 1 (nr - 1)).flatMap roundCommands
    ++ [.subb, .shrw, .adrk (BitVec.ofNat 8 nr), .stst]

end Sys2Proof.Machine
end

