-- ==== Sys2Proof/Certificates/Slice0/Obligations.lean ====
section
/-! DEFINITION. The statements about LSCORE, from the numbered rules of spec/. A frame is written as an equation: `t = { s
with … }` lists every field a command may change; every other field of `t` is that of `s`. -/

open Sys2Proof Sys2Proof.Machine

/-! ## Encoding (30_encoding.md) -/

/-- R90, R91, R93: the decoder reads back every well-formed command from its word, and a word that decodes is the word
of its command, but for SRST, whose ARG byte is ignored. -/
def Obligations.DecodeInvertsEncode : Prop :=
  (∀ i : Instr, i.wf = true → decodeWord (encode i) = .ok i)
  ∧ ∀ (word : BitVec 16) (i : Instr), decodeWord word = .ok i →
      encode i = word ∨ (i = .srst ∧ wordOp word = 0x01)

/-- R92, R94: the words that are not IllegalCommand by the three clauses of R94 are those that decode to a well-formed
command. -/
def Obligations.LegalWordsDecodeToWellFormedCommands : Prop :=
  ∀ op arg : Byte, legalWord op arg = true ↔ ∃ i, decode op arg = .ok i ∧ i.wf = true

/-- R246: an illegal word, whatever the other registers hold, takes the fault IllegalCommand and does nothing else. -/
def Obligations.IllegalWordTakesIllegalCommand : Prop :=
  ∀ (op : Byte) (s : State), s.fault = false → legalWord op s.arg = false →
    s.issue op = .next
      { s with
        err := .illegalCommand, errop := op, errarg := s.arg, fault := true, done := false, busy := false
        outlen := 0, held := none }

/-- The rows of 95_test_vectors.md section 5 that decode, word by word. -/
def Obligations.SpecWordsDecode : Prop :=
  decodeTableWord 16 0x0000 = some .nop ∧ decodeTableWord 16 0x0001 = none ∧ decodeTableWord 16 0x015A = some .srst
  ∧ decodeTableWord 16 0x1000 = some .kexp ∧ decodeTableWord 16 0x1100 = none
  ∧ decodeTableWord 16 0x240E = some (.adrk 14) ∧ decodeTableWord 16 0x2600 = none
  ∧ decodeTableWord 16 0x2800 = some .encb ∧ decodeTableWord 16 0x3601 = some (.xorb 1)
  ∧ decodeTableWord 16 0x3710 = some (.cblk 16) ∧ decodeTableWord 16 0x3800 = some .encr
  ∧ decodeTableWord 16 0x390C = none ∧ decodeTableWord 16 0x4003 = some (.b64e 3)
  ∧ decodeTableWord 16 0x4101 = some (.b64d 1) ∧ decodeTableWord 16 0x4400 = none
  ∧ decodeTableWord 16 0xFF00 = none

/-! ## The step and the host interface (20_memory.md, 45_control_and_host.md, 70_reset_and_hazards.md) -/

/-- R225: when the host's next action is the CMD write of a word that decodes to `i`, and no command is in hold and no
fault stands, one step is `exec i` on the accepted state (BUSY = 1, DONE = 0), the write taken off the script. -/
def Obligations.StepRunsDecodedCommand : Prop :=
  ∀ (s : State) (op : Byte) (rest : List Event) (i : Instr),
    s.env.script = .write 0x000 op :: rest → s.busy = false → s.fault = false → decode op s.arg = .ok i →
    step s = exec i { s with busy := true, done := false, env := { s.env with script := rest } }

/-- R223 to R227, R230, R281, R96: what a step does on every event the contract allows. With no event left it changes
nothing; a host write with BUSY = 0, and a DIN push at any time, is the register write of R224 on the state with the event
taken off the script; a host read with BUSY = 0, and at any time one that R281 allows in a hold, is the register read of
R223 there; a CLOCK line changes only what the clock ports present (hardware reset: ResetAndSrstGiveTheResetState). A CMD
write is a command issue, a DIN write is a push, and a read outside DOUT puts the byte of the map into the host's record
and changes nothing else. The script, the record and the idle step are the model's choice (log entries 1, 2, 10). -/
def Obligations.StepServesReadsAndClock : Prop :=
  (∀ (s : State) (rest : List Event),
    (s.env.script = [] → step s = .next s)
    ∧ (∀ a v, s.env.script = .write a v :: rest → s.busy = false ∨ a = 0x009 →
        step s = (s.withScript rest).hostWrite a v)
    ∧ (∀ a, s.env.script = .read a :: rest → s.busy = false ∨ Event.allowedInHold (.read a) = true →
        step s = .next ((s.withScript rest).hostRead a))
    ∧ (∀ sec ms, s.env.script = .clock sec ms :: rest →
        step s = .next { s with env := { s.env with script := rest, clock := some { sec := sec, ms := ms } } }))
  ∧ ∀ s : State,
    (∀ rest, s.withScript rest = { s with env := { s.env with script := rest } })
    ∧ (∀ op, s.hostWrite 0x000 op = s.issue op)
    ∧ (∀ v, s.hostWrite 0x009 v = s.pushIn v)
    ∧ ∀ a, a ≠ 0x00A → s.hostRead a = { s with env := { s.env with replies := s.env.replies ++ [s.readByte a] } }

/-- R62, R30, R34, R65, R66: the byte a read returns, address by address, and DINCNT = |DIN|, DOUTCNT = |DOUT| (claimed
where the count fits 64 bits, log entry 3). -/
def Obligations.HostReadsFollowTheMap : Prop :=
  ∀ s : State,
    s.readByte 0x001 = s.arg
    ∧ ((s.readByte 0x002).getLsbD 0 = s.busy ∧ (s.readByte 0x002).getLsbD 1 = s.done
      ∧ (s.readByte 0x002).getLsbD 2 = s.fault ∧ (s.readByte 0x002).getLsbD 3 = s.nv
      ∧ (s.readByte 0x002).extractLsb' 4 2 = s.ksz.code ∧ (s.readByte 0x002).extractLsb' 6 2 = 0)
    ∧ s.readByte 0x003 = s.err.code ∧ s.readByte 0x004 = s.errop ∧ s.readByte 0x005 = s.errarg
    ∧ s.readByte 0x006 = s.keybits.extractLsb' 8 8 ∧ s.readByte 0x007 = s.keybits.extractLsb' 0 8
    ∧ s.readByte 0x008 = s.pwlen.setWidth 8
    ∧ (∀ (i : Nat) (h : i < 8),
        s.readByte (BitVec.ofNat 12 (0x010 + i)) = s.inlen.extractLsb' (56 - 8 * i) 8
        ∧ s.readByte (BitVec.ofNat 12 (0x018 + i)) = s.outlen.extractLsb' (56 - 8 * i) 8
        ∧ s.readByte (BitVec.ofNat 12 (0x020 + i)) = s.ctr.extractLsb' (56 - 8 * i) 8
        ∧ s.readByte (BitVec.ofNat 12 (0x028 + i)) = s.nonce[i]
        ∧ s.readByte (BitVec.ofNat 12 (0x030 + i)) = s.dincnt.extractLsb' (56 - 8 * i) 8
        ∧ s.readByte (BitVec.ofNat 12 (0x038 + i)) = s.doutcnt.extractLsb' (56 - 8 * i) 8)
    ∧ (s.din.length < 2 ^ 64 → s.dincnt = BitVec.ofNat 64 s.din.length)
    ∧ (s.dout.length < 2 ^ 64 → s.doutcnt = BitVec.ofNat 64 s.dout.length)
    ∧ (∀ (i : Nat) (h : i < 32),
        s.readByte (BitVec.ofNat 12 (0x040 + i)) = s.pw[i] ∧ s.readByte (BitVec.ofNat 12 (0x060 + i)) = s.key[i])
    ∧ (∀ (i : Nat) (h : i < 16),
        s.readByte (BitVec.ofNat 12 (0x080 + i)) = s.blkin[i] ∧ s.readByte (BitVec.ofNat 12 (0x090 + i)) = s.blkout[i])
    ∧ (∀ r c : Fin 4, s.readByte (BitVec.ofNat 12 (0x0A0 + r.val + 4 * c.val)) = cell s.mat r c)
    ∧ (∀ (r j : Nat) (hj : j < 4), r < 11 → s.readByte (BitVec.ofNat 12 (0x0C0 + 4 * r + j)) = (rcon r)[j])
    ∧ (∀ a : Byte, s.readByte (BitVec.ofNat 12 (0x100 + a.toNat)) = sbox a)
    ∧ ∀ (i j : Nat) (hi : i < 60) (hj : j < 4), s.readByte (BitVec.ofNat 12 (0x200 + 4 * i + j)) = s.w[i][j]

/-- R64: a read of a reserved address or of a write-only register returns 0x00 and changes nothing; a write to a
reserved address or to a read-only register is ignored; no fault. -/
def Obligations.ReservedReadZeroReadOnlyIgnoreWrites : Prop :=
  (∀ (s : State) (a : BitVec 12), reservedAddress a.toNat = true ∨ a = 0x000 ∨ a = 0x009 →
      s.hostRead a = { s with env := { s.env with replies := s.env.replies ++ [0] } })
  ∧ ∀ (s : State) (a : BitVec 12) (v : Byte),
      reservedAddress a.toNat = true ∨ readOnlyAddress a.toNat = true → s.hostWrite a v = .next s

/-- R72, R73, R224: a write to a byte of ARG, KEYBITS, INLEN, CTR, PW, KEY or BLKIN stores exactly that byte: it reads
back, and every other address reads as before; no other register changes. -/
def Obligations.HostWriteStoresExactlyOneByte : Prop :=
  ∀ (s : State) (a : BitVec 12) (v : Byte), plainAddress a.toNat = true →
    ∃ t, s.hostWrite a v = .next t ∧ t.readByte a = v ∧ (∀ b, b ≠ a → t.readByte b = s.readByte b)
      ∧ t = { s with
          arg := t.arg, keybits := t.keybits, inlen := t.inlen, ctr := t.ctr, pw := t.pw, key := t.key
          blkin := t.blkin }

/-- R228: a write of `v` to PWLEN stores min(v mod 64, 32) and nothing else; a read returns the stored value in bits 5:0
and 0 in bits 7:6. -/
def Obligations.PwlenWriteClamps : Prop :=
  ∀ (s : State) (v : Byte),
    s.hostWrite 0x008 v = .next { s with pwlen := BitVec.ofNat 6 (min (v.toNat % 64) 32) }
    ∧ (s.readByte 0x008).extractLsb' 0 6 = s.pwlen ∧ (s.readByte 0x008).extractLsb' 6 2 = 0

/-- R226: with no command in hold a DIN push appends the byte at the tail and DINCNT grows by 1; a read of DIN returns
0x00. (The push into a hold is PushEndsHold.) -/
def Obligations.DinPushAppends : Prop :=
  ∀ (s : State) (v : Byte), s.held = none →
    s.hostWrite 0x009 v = .next { s with din := s.din ++ [v] }
    ∧ (s.din.length + 1 < 2 ^ 64 → ({ s with din := s.din ++ [v] } : State).dincnt = s.dincnt + 1)
    ∧ s.readByte 0x009 = 0

/-- R227: a read of DOUT removes and returns the oldest byte, DOUTCNT decreasing by 1; on an empty DOUT it returns 0x00
and changes nothing; a write is ignored; all of it also in the fault state. -/
def Obligations.DoutPopTakesTheOldestByte : Prop :=
  (∀ (s : State) (b : Byte) (rest : List Byte), s.dout = b :: rest →
      s.hostRead 0x00A = { s with dout := rest, env := { s.env with replies := s.env.replies ++ [b] } }
      ∧ (s.dout.length < 2 ^ 64 → (s.hostRead 0x00A).doutcnt = s.doutcnt - 1))
  ∧ (∀ s : State, s.dout = [] → s.hostRead 0x00A = { s with env := { s.env with replies := s.env.replies ++ [0] } })
  ∧ ∀ (s : State) (v : Byte), s.hostWrite 0x00A v = .next s

/-- R230: while a command that passed its checks is in hold, a DIN push that leaves the input short only appends; the
push that completes the input runs the command to its end, and the hold is over. -/
def Obligations.PushEndsHold : Prop :=
  ∀ (s : State) (v : Byte) (i : Instr), s.held = some i → s.busy = true → s.done = false → faultAtIssue i s = none →
    (s.din.length + 1 < inputNeeded s i → s.pushIn v = .next { s with din := s.din ++ [v] })
    ∧ (inputNeeded s i ≤ s.din.length + 1 →
        ∃ t, s.pushIn v = .next t ∧ exec i { s with din := s.din ++ [v] } = .next t
          ∧ t.busy = false ∧ t.held = none)

/-- R281: while a command is in hold, exactly the host accesses outside the contract are refused; with none in hold no
step is refused. -/
def Obligations.RefusesExactlyOutsideTheHoldContract : Prop :=
  (∀ (s : State) (e : Event) (rest : List Event), s.env.script = e :: rest → s.busy = true →
      ((∃ r, step s = .refused r) ↔ e.allowedInHold = false))
  ∧ ∀ s : State, s.busy = false → ∀ r, step s ≠ .refused r

/-- R39, R222, R270: the reset state, register by register; SRST, whatever ARG holds and also in the fault state, and
hardware reset in every state, put every item of R39 there. -/
def Obligations.ResetAndSrstGiveTheResetState : Prop :=
  (State.reset.keybits = 0 ∧ State.reset.pwlen = 0 ∧ State.reset.ctr = 0 ∧ State.reset.inlen = 0
    ∧ State.reset.outlen = 0 ∧ State.reset.arg = 0 ∧ State.reset.status = 0 ∧ State.reset.err = .noFault
    ∧ State.reset.errop = 0 ∧ State.reset.errarg = 0 ∧ State.reset.din = [] ∧ State.reset.dout = []
    ∧ (∀ (i : Nat) (h : i < 32), State.reset.pw[i] = 0 ∧ State.reset.key[i] = 0)
    ∧ (∀ (i j : Nat) (hi : i < 60) (hj : j < 4), State.reset.w[i][j] = 0)
    ∧ (∀ r c, cell State.reset.mat r c = 0)
    ∧ (∀ (i : Nat) (h : i < 16), State.reset.blkin[i] = 0 ∧ State.reset.blkout[i] = 0)
    ∧ (∀ (i : Nat) (h : i < 8), State.reset.nonce[i] = 0)
    ∧ State.reset.dincnt = 0 ∧ State.reset.doutcnt = 0 ∧ State.reset.held = none)
  ∧ (∀ s : State, exec .srst s = .next { State.reset with env := s.env }
      ∧ s.issue 0x01 = .next { State.reset with env := s.env })
  ∧ ∀ (s : State) (rest : List Event), s.env.script = .reset :: rest →
      step s = .next { State.reset with env := { s.env with script := rest } }

/-! ## Control (45_control_and_host.md) -/

/-- R221: NOP writes OUTLEN and DONE and nothing else; with ARG ≠ 0 its word is IllegalCommand; in the fault state it is
dropped. -/
def Obligations.NopWritesDoneAndOutlen : Prop :=
  encode .nop = 0x0000
  ∧ (∀ s : State, exec .nop s = .next { s with outlen := 0, done := true, busy := false, held := none })
  ∧ (∀ s : State, s.fault = false → s.arg ≠ 0 → s.issue 0x00 = .next (s.faultEntry .illegalCommand 0x00 s.arg))
  ∧ ∀ s : State, s.fault = true → s.issue 0x00 = .next s

/-! ## Tables and key schedule (40_gf_tables.md, 41_key_schedule.md) -/

/-- R113, R115: SBOX[a] is the affine image of the field inverse x of a (x = 0 for a = 0), for every byte; RCON[0] is
zero and RCON[r] carries xtime applied r-1 times to 0x01 in byte 0, for r = 1..10. -/
def Obligations.TablesFollowTheirDefinitions : Prop :=
  (∀ a : Byte, ∃ x : Byte, (if a = 0 then x = 0 else gmul a x = 1)
    ∧ sbox a = x ^^^ x.rotateLeft 1 ^^^ x.rotateLeft 2 ^^^ x.rotateLeft 3 ^^^ x.rotateLeft 4 ^^^ 0x63)
  ∧ rcon 0 = #v[0, 0, 0, 0] ∧ ∀ r : Nat, r < 10 → rcon (r + 1) = #v[xtime^[r] 0x01, 0, 0, 0]

/-- R130: Expand gives 4·(Nr+1) = 4·(Nk+7) words; the first Nk are the key; every later one is word i-Nk XORed with the
previous word, taken through RotWord, SubWord and RCON[i/Nk] when i mod Nk = 0, through SubWord alone when Nk > 6 and
i mod Nk = 4, and unmodified otherwise. -/
def Obligations.ExpandSatisfiesTheRecurrence : Prop :=
  ∀ (nk : Nat) (key : List Byte), nk = 4 ∨ nk = 6 ∨ nk = 8 → key.length = 4 * nk →
    (expand key).length = 4 * (nk + 7)
    ∧ (∀ i j : Nat, i < nk → j < 4 → byteAt (wordAt (expand key) i) j = key.getD (4 * i + j) 0)
    ∧ ∀ i : Nat, nk ≤ i → i < 4 * (nk + 7) →
        wordAt (expand key) i =
          xorWord (wordAt (expand key) (i - nk))
            (if i % nk = 0 then xorWord (subWord (rotWord (wordAt (expand key) (i - 1)))) (rcon (i / nk))
             else if 6 < nk ∧ i % nk = 4 then subWord (wordAt (expand key) (i - 1))
             else wordAt (expand key) (i - 1))

/-- R131: KEXP writes the expansion of KEY[0:N] to W[0..4(Nr+1)-1], keeps the other words, latches KSZ; KEYBITS outside
{128, 192, 256} takes InvalidKeySize. -/
def Obligations.KexpExpandsTheKey : Prop :=
  encode .kexp = 0x1000
  ∧ (∀ s : State, legalKeybits s.keybits = true →
      ∃ t, exec .kexp s = .next t
        ∧ (∀ (i : Nat) (h : i < 60), i < 4 * (s.keybits.toNat / 32 + 7) →
            t.w[i] = wordAt (expand (s.key.toList.take (s.keybits.toNat / 8))) i)
        ∧ (∀ (i : Nat) (h : i < 60), 4 * (s.keybits.toNat / 32 + 7) ≤ i → t.w[i] = s.w[i])
        ∧ (s.keybits = 128 → t.ksz = .nk4) ∧ (s.keybits = 192 → t.ksz = .nk6) ∧ (s.keybits = 256 → t.ksz = .nk8)
        ∧ t = { s with w := t.w, ksz := t.ksz, outlen := 0, done := true, busy := false, held := none })
  ∧ ∀ s : State, s.keybits ≠ 128 → s.keybits ≠ 192 → s.keybits ≠ 256 →
      exec .kexp s = .next (s.faultEntry .invalidKeySize 0x10 0x00)

/-! ## Block cipher datapath (42_block_cipher.md) -/

/-- R141: LDST loads BLKIN column-major into S. -/
def Obligations.LdstLoadsColumnMajor : Prop :=
  encode .ldst = 0x2000
  ∧ ∀ s : State, ∃ t, exec .ldst s = .next t
      ∧ (∀ r c : Fin 4, cell t.mat r c = s.blkin[r.val + 4 * c.val])
      ∧ t = { s with mat := t.mat, outlen := 0, done := true, busy := false, held := none }

/-- R142: SUBB replaces every byte of S by its SBOX entry. -/
def Obligations.SubbSubstitutesEveryByte : Prop :=
  encode .subb = 0x2100
  ∧ ∀ s : State, ∃ t, exec .subb s = .next t
      ∧ (∀ r c : Fin 4, cell t.mat r c = sbox (cell s.mat r c))
      ∧ t = { s with mat := t.mat, outlen := 0, done := true, busy := false, held := none }

/-- R143: SHRW rotates row r left by r columns, all reads seeing the old S. -/
def Obligations.ShrwRotatesRowsLeft : Prop :=
  encode .shrw = 0x2200
  ∧ ∀ s : State, ∃ t, exec .shrw s = .next t
      ∧ (∀ r c : Fin 4, cell t.mat r c = cellMod s.mat r.val ((c.val + r.val) % 4))
      ∧ t = { s with mat := t.mat, outlen := 0, done := true, busy := false, held := none }

/-- R144: MIXC combines each column's original bytes a and their doubles b by the four formulas; in field terms, by the
matrix with rows (2 3 1 1), (1 2 3 1), (1 1 2 3), (3 1 1 2). -/
def Obligations.MixcMultipliesColumns : Prop :=
  encode .mixc = 0x2300
  ∧ ∀ s : State, ∃ t, exec .mixc s = .next t
      ∧ (∀ (c : Fin 4) (a b : Fin 4 → Byte), (∀ r, a r = cell s.mat r c) → (∀ r, b r = xtime (a r)) →
          cell t.mat 0 c = b 0 ^^^ a 1 ^^^ b 1 ^^^ a 2 ^^^ a 3
          ∧ cell t.mat 1 c = a 0 ^^^ b 1 ^^^ a 2 ^^^ b 2 ^^^ a 3
          ∧ cell t.mat 2 c = a 0 ^^^ a 1 ^^^ b 2 ^^^ a 3 ^^^ b 3
          ∧ cell t.mat 3 c = a 0 ^^^ b 0 ^^^ a 1 ^^^ a 2 ^^^ b 3)
      ∧ (∀ r c : Fin 4,
          cell t.mat r c =
            gmul (cell s.mat r c) 2 ^^^ gmul (cell s.mat (r + 1) c) 3 ^^^ cell s.mat (r + 2) c ^^^ cell s.mat (r + 3) c)
      ∧ t = { s with mat := t.mat, outlen := 0, done := true, busy := false, held := none }

/-- R145: ADRK XORs round key `round` into S; a round above 14 takes IllegalCommand, then a missing schedule or a round
beyond it takes SequenceError. -/
def Obligations.AdrkAddsTheRoundKey : Prop :=
  ∀ (round : Byte) (s : State),
    encode (.adrk round) = 0x2400 + round.setWidth 16
    ∧ (14 < round.toNat → exec (.adrk round) s = .next (s.faultEntry .illegalCommand 0x24 round))
    ∧ (round.toNat ≤ 14 → s.ksz = .empty ∨ s.ksz.nr < round.toNat →
        exec (.adrk round) s = .next (s.faultEntry .sequenceError 0x24 round))
    ∧ (s.ksz ≠ .empty → round.toNat ≤ s.ksz.nr →
        ∃ t, exec (.adrk round) s = .next t
          ∧ (∀ (r c : Fin 4) (h : 4 * round.toNat + c.val < 60),
              cell t.mat r c = cell s.mat r c ^^^ s.w[4 * round.toNat + c.val].get r)
          ∧ t = { s with mat := t.mat, outlen := 0, done := true, busy := false, held := none })

/-- R146: STST serializes S column-major into BLKOUT. -/
def Obligations.StstSerializesColumnMajor : Prop :=
  encode .stst = 0x2500
  ∧ ∀ s : State, ∃ t, exec .stst s = .next t
      ∧ (∀ r c : Fin 4, t.blkout[r.val + 4 * c.val] = cell s.mat r c)
      ∧ t = { s with blkout := t.blkout, outlen := 0, done := true, busy := false, held := none }

/-- R147: ENCB sets BLKOUT to EncryptBlock(BLKIN, W[0..WLEN-1]), leaves the final State in S, and writes nothing else;
without a schedule it takes SequenceError. -/
def Obligations.EncbEncryptsTheBlock : Prop :=
  encode .encb = 0x2800
  ∧ (∀ s : State, s.ksz ≠ .empty →
      ∃ t, exec .encb s = .next t ∧ t.blkout = encryptBlock s.blkin s.schedule ∧ storeMat t.mat = t.blkout
        ∧ t = { s with mat := t.mat, blkout := t.blkout, outlen := 0, done := true, busy := false, held := none })
  ∧ ∀ s : State, s.ksz = .empty → exec .encb s = .next (s.faultEntry .sequenceError 0x28 0x00)

/-- R147, at the level of exec, without the ARG writes by which a host gives ADRK its operand (R96): LDST; ADRK 0; (SUBB;
SHRW; MIXC; ADRK r) for r = 1..Nr-1; SUBB; SHRW; ADRK Nr; STST leaves the machine exactly as ENCB does. -/
def Obligations.HostRoundSequenceEqualsEncb : Prop :=
  ∀ s : State, s.ksz ≠ .empty →
    ∃ t, State.runCommands (encbCommands s.ksz.nr) s = .next t ∧ exec .encb s = .next t

/-- R148: (a) the known answers for the all-zero keys of 128, 192 and 256 bits and the all-zero block; (b) the matrix with
rows (0E 0B 0D 09), (09 0E 0B 0D), (0D 09 0E 0B), (0B 0D 09 0E), applied after MixColumns, restores every column. -/
def Obligations.KnownAnswersAndInverseMixColumns : Prop :=
  (encryptBlock (Vector.replicate 16 0) (expand (List.replicate 16 0))).toList =
      [0x66, 0xE9, 0x4B, 0xD4, 0xEF, 0x8A, 0x2C, 0x3B, 0x88, 0x4C, 0xFA, 0x59, 0xCA, 0x34, 0x2B, 0x2E]
  ∧ (encryptBlock (Vector.replicate 16 0) (expand (List.replicate 24 0))).toList =
      [0xAA, 0xE0, 0x69, 0x92, 0xAC, 0xBF, 0x52, 0xA3, 0xE8, 0xF4, 0xA9, 0x6E, 0xC9, 0x30, 0x0B, 0xD7]
  ∧ (encryptBlock (Vector.replicate 16 0) (expand (List.replicate 32 0))).toList =
      [0xDC, 0x95, 0xC0, 0x78, 0xA2, 0x40, 0x89, 0x89, 0xAD, 0x48, 0xA2, 0x14, 0x92, 0x84, 0x20, 0x87]
  ∧ ∀ (t : Mat) (r c : Fin 4),
      gmul (cell (mixColumns t) r c) 0x0E ^^^ gmul (cell (mixColumns t) (r + 1) c) 0x0B
        ^^^ gmul (cell (mixColumns t) (r + 2) c) 0x0D ^^^ gmul (cell (mixColumns t) (r + 3) c) 0x09 = cell t r c

/-! ## Counter-mode engine (43_ctr_engine.md) -/

/-- R161: PWBK writes the password block, zero-padded or truncated to N bytes, into KEY and zeroes the rest. -/
def Obligations.PwbkFormsThePasswordBlock : Prop :=
  encode .pwbk = 0x3000
  ∧ (∀ s : State, legalKeybits s.keybits = true →
      ∃ t, exec .pwbk s = .next t
        ∧ (∀ (i : Nat) (h : i < 32),
            t.key[i] = if i < s.keybits.toNat / 8 ∧ i < s.pwlen.toNat then s.pw[i] else 0)
        ∧ t.key.toList.take (s.keybits.toNat / 8)
            = pwBlock (s.pw.toList.take s.pwlen.toNat) (s.keybits.toNat / 8)
        ∧ t = { s with key := t.key, outlen := 0, done := true, busy := false, held := none })
  ∧ ∀ s : State, legalKeybits s.keybits = false → exec .pwbk s = .next (s.faultEntry .invalidKeySize 0x30 0x00)

/-- R162: after DRVK, with P the password block and c = EncryptBlock(P[0:16], Expand(P)): KEY[0:N] is the derived key
c ++ c[0:N-16], the other key bytes are 0, W and KSZ are its schedule, BLKIN = P[0:16], BLKOUT = Store(S) = c, and nothing
else changed. -/
def Obligations.DrvkDerivesAndExpandsTheKey : Prop :=
  encode .drvk = 0x3100
  ∧ (∀ s : State, legalKeybits s.keybits = true →
      ∃ (t : State) (p : List Byte) (c : Block), exec .drvk s = .next t
        ∧ p = pwBlock (s.pw.toList.take s.pwlen.toNat) (s.keybits.toNat / 8)
        ∧ c = encryptBlock (arrayOf 16 (p.take 16)) (expand p)
        ∧ t.key.toList.take (s.keybits.toNat / 8) = c.toList ++ c.toList.take (s.keybits.toNat / 8 - 16)
        ∧ (∀ (i : Nat) (h : i < 32), s.keybits.toNat / 8 ≤ i → t.key[i] = 0)
        ∧ t.schedule = expand (t.key.toList.take (s.keybits.toNat / 8))
        ∧ (∀ (i : Nat) (h : i < 60), 4 * (s.keybits.toNat / 32 + 7) ≤ i → t.w[i] = s.w[i])
        ∧ t.ksz.nk = s.keybits.toNat / 32
        ∧ t.blkin = arrayOf 16 (p.take 16) ∧ t.blkout = c ∧ storeMat t.mat = c
        ∧ t = { s with
            key := t.key, w := t.w, ksz := t.ksz, blkin := t.blkin, mat := t.mat, blkout := t.blkout
            outlen := 0, done := true, busy := false, held := none })
  ∧ ∀ s : State, legalKeybits s.keybits = false → exec .drvk s = .next (s.faultEntry .invalidKeySize 0x31 0x00)

/-- R163: GNNC takes one sample of the clock ports and puts the low 32 bits of the seconds and the milliseconds,
big-endian, into NONCE; CTR ← 0, NV ← 1. It holds for every clock value (log entry 2). -/
def Obligations.GnncLoadsTheClockNonce : Prop :=
  encode .gnnc = 0x3200
  ∧ ∀ s : State, ∃ t, exec .gnnc s = .next t
      ∧ t.nonce = #v[s.clockPins.sec.extractLsb' 24 8, s.clockPins.sec.extractLsb' 16 8,
          s.clockPins.sec.extractLsb' 8 8, s.clockPins.sec.extractLsb' 0 8, 0, 0,
          (s.clockPins.ms.extractLsb' 8 2).setWidth 8, s.clockPins.ms.extractLsb' 0 8]
      ∧ t = { s with
          nonce := t.nonce, ctr := 0, nv := true, outlen := 0, done := true, busy := false, held := none
          env := { s.env with draws := s.env.draws + 1 } }

/-- R164: LDNC takes the eight oldest bytes of DIN as NONCE, CTR ← 0, NV ← 1; with fewer it holds. -/
def Obligations.LdncLoadsTheNonceFromDin : Prop :=
  encode .ldnc = 0x3300
  ∧ (∀ s : State, 8 ≤ s.din.length →
      ∃ t, exec .ldnc s = .next t ∧ t.nonce.toList = s.din.take 8
        ∧ t = { s with
            nonce := t.nonce, ctr := 0, nv := true, din := s.din.drop 8, outlen := 0, done := true, busy := false
            held := none })
  ∧ ∀ s : State, s.din.length < 8 → exec .ldnc s = .next { s with busy := true, done := false, held := some .ldnc }

/-- R165: EMNC pushes the eight nonce bytes, OUTLEN ← 8; without a nonce it takes SequenceError. -/
def Obligations.EmncPushesTheNonce : Prop :=
  encode .emnc = 0x3400
  ∧ (∀ s : State, s.nv = true →
      exec .emnc s = .next
        { s with dout := s.dout ++ s.nonce.toList, outlen := 8, done := true, busy := false, held := none })
  ∧ ∀ s : State, s.nv = false → exec .emnc s = .next (s.faultEntry .sequenceError 0x34 0x00)

/-- R166: CTRB writes NONCE and CTR, big-endian, into BLKIN; without a nonce it takes SequenceError. -/
def Obligations.CtrbBuildsTheCounterBlock : Prop :=
  encode .ctrb = 0x3500
  ∧ (∀ s : State, s.nv = true →
      ∃ t, exec .ctrb s = .next t
        ∧ (∀ (i : Nat) (h : i < 8),
            t.blkin[i] = s.nonce[i] ∧ t.blkin[8 + i] = s.ctr.extractLsb' (56 - 8 * i) 8)
        ∧ t = { s with blkin := t.blkin, outlen := 0, done := true, busy := false, held := none })
  ∧ ∀ s : State, s.nv = false → exec .ctrb s = .next (s.faultEntry .sequenceError 0x35 0x00)

/-- R167: XORB k XORs the k oldest bytes of DIN with BLKOUT[0..k-1] onto DOUT, CTR + 1 modulo 2^64, OUTLEN ← k; k outside
1..16 takes IllegalCommand; with fewer than k bytes it holds. -/
def Obligations.XorbXorsOneBlock : Prop :=
  ∀ (k : Byte) (s : State),
    encode (.xorb k) = 0x3600 + k.setWidth 16
    ∧ (k.toNat < 1 ∨ 16 < k.toNat → exec (.xorb k) s = .next (s.faultEntry .illegalCommand 0x36 k))
    ∧ (1 ≤ k.toNat → k.toNat ≤ 16 → s.din.length < k.toNat →
        exec (.xorb k) s = .next { s with busy := true, done := false, held := some (.xorb k) })
    ∧ (1 ≤ k.toNat → k.toNat ≤ 16 → k.toNat ≤ s.din.length →
        ∃ (t : State) (out : List Byte), exec (.xorb k) s = .next t ∧ out.length = k.toNat
          ∧ (∀ j, j < k.toNat → out.getD j 0 = s.din.getD j 0 ^^^ byteAt s.blkout j)
          ∧ t = { s with
              din := s.din.drop k.toNat, dout := s.dout ++ out, ctr := s.ctr + 1, outlen := k.setWidth 64
              done := true, busy := false, held := none })

/-- R168: CBLK k is one block of counter mode: BLKIN = CounterBlock(NONCE, CTR), BLKOUT = its encryption under the
schedule W holds, k bytes of DIN XORed with it onto DOUT, CTR + 1; all checks and the hold come before any write. -/
def Obligations.CblkProcessesOneBlock : Prop :=
  ∀ (k : Byte) (s : State),
    encode (.cblk k) = 0x3700 + k.setWidth 16
    ∧ (k.toNat < 1 ∨ 16 < k.toNat → exec (.cblk k) s = .next (s.faultEntry .illegalCommand 0x37 k))
    ∧ (1 ≤ k.toNat → k.toNat ≤ 16 → s.nv = false ∨ s.ksz = .empty →
        exec (.cblk k) s = .next (s.faultEntry .sequenceError 0x37 k))
    ∧ (1 ≤ k.toNat → k.toNat ≤ 16 → s.nv = true → s.ksz ≠ .empty → s.din.length < k.toNat →
        exec (.cblk k) s = .next { s with busy := true, done := false, held := some (.cblk k) })
    ∧ (1 ≤ k.toNat → k.toNat ≤ 16 → s.nv = true → s.ksz ≠ .empty → k.toNat ≤ s.din.length →
        ∃ (t : State) (out : List Byte), exec (.cblk k) s = .next t
          ∧ t.blkin = counterBlock s.nonce s.ctr ∧ t.blkout = keystream s.schedule s.nonce s.ctr
          ∧ storeMat t.mat = t.blkout ∧ out.length = k.toNat
          ∧ (∀ j, j < k.toNat → out.getD j 0 = s.din.getD j 0 ^^^ byteAt t.blkout j)
          ∧ t = { s with
              blkin := t.blkin, mat := t.mat, blkout := t.blkout, din := s.din.drop k.toNat, dout := s.dout ++ out
              ctr := s.ctr + 1, outlen := k.setWidth 64, done := true, busy := false, held := none })

/-- R169: ENCR pushes Encrypt(pt, PW[0:PWLEN], KEYBITS, sec, ms) of the INLEN oldest bytes of DIN and one clock sample,
and leaves the registers as the rule says; an illegal key size takes InvalidKeySize before anything else; with too little
input it holds. It holds for every clock value (log entry 2); OUTLEN is claimed where it fits 64 bits (log entry 3). -/
def Obligations.EncrPushesTheEncryptedEnvelope : Prop :=
  encode .encr = 0x3800
  ∧ (∀ s : State, legalKeybits s.keybits = false → exec .encr s = .next (s.faultEntry .invalidKeySize 0x38 0x00))
  ∧ (∀ s : State, legalKeybits s.keybits = true → s.din.length < s.inlen.toNat →
      exec .encr s = .next { s with busy := true, done := false, held := some .encr })
  ∧ ∀ s : State, legalKeybits s.keybits = true → s.inlen.toNat ≤ s.din.length →
      ∃ (t : State) (text p : List Byte), exec .encr s = .next t
        ∧ encrypt (s.din.take s.inlen.toNat) (s.pw.toList.take s.pwlen.toNat) s.keybits s.clockPins.sec s.clockPins.ms
            = some text
        ∧ text.length = 4 * ((8 + s.inlen.toNat + 2) / 3)
        ∧ (text.length < 2 ^ 64 → t.outlen = BitVec.ofNat 64 text.length)
        ∧ t.nonce = nonceOf s.clockPins.sec s.clockPins.ms
        ∧ t.ctr = BitVec.ofNat 64 ((s.inlen.toNat + 15) / 16)
        ∧ p = pwBlock (s.pw.toList.take s.pwlen.toNat) (s.keybits.toNat / 8)
        ∧ t.key.toList.take (s.keybits.toNat / 8)
            = deriveKey (s.pw.toList.take s.pwlen.toNat) (s.keybits.toNat / 8)
        ∧ (∀ (i : Nat) (h : i < 32), s.keybits.toNat / 8 ≤ i → t.key[i] = 0)
        ∧ t.ksz.nk = s.keybits.toNat / 32
        ∧ t.schedule = expand (deriveKey (s.pw.toList.take s.pwlen.toNat) (s.keybits.toNat / 8))
        ∧ (∀ (i : Nat) (h : i < 60), 4 * (s.keybits.toNat / 32 + 7) ≤ i → t.w[i] = s.w[i])
        ∧ (0 < s.inlen.toNat →
            t.blkin = counterBlock t.nonce (t.ctr - 1) ∧ t.blkout = keystream t.schedule t.nonce (t.ctr - 1))
        ∧ (s.inlen.toNat = 0 →
            t.blkin = arrayOf 16 (p.take 16) ∧ t.blkout = encryptBlock (arrayOf 16 (p.take 16)) (expand p))
        ∧ storeMat t.mat = t.blkout
        ∧ t = { s with
            key := t.key, w := t.w, ksz := t.ksz, mat := t.mat, blkin := t.blkin, blkout := t.blkout
            nonce := t.nonce, nv := true, ctr := t.ctr, din := s.din.drop s.inlen.toNat, dout := s.dout ++ text
            outlen := t.outlen, done := true, busy := false, held := none
            env := { s.env with draws := s.env.draws + 1 } }

/-- R170: DECR pushes Decrypt(T, PW[0:PWLEN], KEYBITS) of the INLEN oldest bytes T of DIN and leaves the registers as the
rule says; InvalidKeySize first, then the hold, then MalformedEnvelope with nothing consumed; the clock is not read. -/
def Obligations.DecrPushesTheDecryptedText : Prop :=
  encode .decr = 0x3900
  ∧ (∀ s : State, legalKeybits s.keybits = false → exec .decr s = .next (s.faultEntry .invalidKeySize 0x39 0x00))
  ∧ (∀ s : State, legalKeybits s.keybits = true → s.din.length < s.inlen.toNat →
      exec .decr s = .next { s with busy := true, done := false, held := some .decr })
  ∧ (∀ s : State, legalKeybits s.keybits = true → s.inlen.toNat ≤ s.din.length →
      decrypt (s.din.take s.inlen.toNat) (s.pw.toList.take s.pwlen.toNat) s.keybits = none →
      exec .decr s = .next (s.faultEntry .malformedEnvelope 0x39 0x00))
  ∧ ∀ (s : State) (plain : List Byte), legalKeybits s.keybits = true → s.inlen.toNat ≤ s.din.length →
      decrypt (s.din.take s.inlen.toNat) (s.pw.toList.take s.pwlen.toNat) s.keybits = some plain →
      ∃ (t : State) (e p : List Byte), exec .decr s = .next t
        ∧ b64Dec (s.din.take s.inlen.toNat) = some e ∧ e.length = 8 + plain.length
        ∧ t.nonce.toList = e.take 8
        ∧ t.outlen = BitVec.ofNat 64 plain.length
        ∧ t.ctr = BitVec.ofNat 64 ((plain.length + 15) / 16)
        ∧ p = pwBlock (s.pw.toList.take s.pwlen.toNat) (s.keybits.toNat / 8)
        ∧ t.key.toList.take (s.keybits.toNat / 8)
            = deriveKey (s.pw.toList.take s.pwlen.toNat) (s.keybits.toNat / 8)
        ∧ (∀ (i : Nat) (h : i < 32), s.keybits.toNat / 8 ≤ i → t.key[i] = 0)
        ∧ t.ksz.nk = s.keybits.toNat / 32
        ∧ t.schedule = expand (deriveKey (s.pw.toList.take s.pwlen.toNat) (s.keybits.toNat / 8))
        ∧ (∀ (i : Nat) (h : i < 60), 4 * (s.keybits.toNat / 32 + 7) ≤ i → t.w[i] = s.w[i])
        ∧ (0 < plain.length →
            t.blkin = counterBlock t.nonce (t.ctr - 1) ∧ t.blkout = keystream t.schedule t.nonce (t.ctr - 1))
        ∧ (plain.length = 0 →
            t.blkin = arrayOf 16 (p.take 16) ∧ t.blkout = encryptBlock (arrayOf 16 (p.take 16)) (expand p))
        ∧ storeMat t.mat = t.blkout
        ∧ t = { s with
            key := t.key, w := t.w, ksz := t.ksz, mat := t.mat, blkin := t.blkin, blkout := t.blkout
            nonce := t.nonce, nv := true, ctr := t.ctr, din := s.din.drop s.inlen.toNat, dout := s.dout ++ plain
            outlen := t.outlen, done := true, busy := false, held := none }

/-- R172 (c): decrypting what was encrypted under the same password and key size gives the plaintext back, for every
plaintext, password, legal key size and clock answer. -/
def Obligations.DecryptInvertsEncrypt : Prop :=
  ∀ (pt pw : List Byte) (keybits : BitVec 16) (sec : BitVec 64) (ms : BitVec 10), legalKeybits keybits = true →
    ∃ text, encrypt pt pw keybits sec ms = some text ∧ decrypt text pw keybits = some pt

/-- R174: XORing d into ciphertext byte i of an envelope XORs d into plaintext byte i and changes no other byte; nothing
signals it. -/
def Obligations.CiphertextByteFlipsOnlyItsPlaintextByte : Prop :=
  ∀ (nonce x pw plain : List Byte) (keybits : BitVec 16) (i : Nat) (d : Byte), nonce.length = 8 →
    decrypt (b64Enc (nonce ++ x)) pw keybits = some plain →
    decrypt (b64Enc (nonce ++ x.modify i (· ^^^ d))) pw keybits = some (plain.modify i (· ^^^ d))

/-- R231: what ENCR or DECR pushes, its OUTLEN, and whether and how it faults, depend only on KEYBITS, PW[0..PWLEN-1],
PWLEN, INLEN, the INLEN oldest bytes of DIN and, for ENCR, the clock sample. -/
def Obligations.CallResultDependsOnlyOnItsInputs : Prop :=
  ∀ (i : Instr) (s s' : State), i = .encr ∨ i = .decr →
    s.keybits = s'.keybits → s.pwlen = s'.pwlen →
    s.pw.toList.take s.pwlen.toNat = s'.pw.toList.take s'.pwlen.toNat → s.inlen = s'.inlen →
    s.inlen.toNat ≤ s.din.length → s'.inlen.toNat ≤ s'.din.length →
    s.din.take s.inlen.toNat = s'.din.take s'.inlen.toNat → (i = .encr → s.clockPins = s'.clockPins) →
    ∃ (t t' : State) (out : List Byte), exec i s = .next t ∧ exec i s' = .next t'
      ∧ t.dout = s.dout ++ out ∧ t'.dout = s'.dout ++ out ∧ t.outlen = t'.outlen ∧ t.done = t'.done
      ∧ (t.done = false → t.err = t'.err ∧ t.fault = true ∧ t'.fault = true)

/-! ## Base64 (44_base64.md) -/

/-- R200: the alphabet, and Val as its inverse: Val is defined on exactly the 64 digit characters. -/
def Obligations.AlphabetAndItsInverse : Prop :=
  (∀ v : Byte, (v.toNat ≤ 25 → b64Chr v = 0x41 + v)
    ∧ (26 ≤ v.toNat ∧ v.toNat ≤ 51 → b64Chr v = 0x61 + (v - 26))
    ∧ (52 ≤ v.toNat ∧ v.toNat ≤ 61 → b64Chr v = 0x30 + (v - 52)))
  ∧ b64Chr 62 = 0x2B ∧ b64Chr 63 = 0x2F ∧ b64Pad = 0x3D
  ∧ ∀ c v : Byte, b64Val c = some v ↔ v.toNat < 64 ∧ b64Chr v = c

/-- R207: DecQ accepts a quantum exactly when it is EncQ of 1, 2 or 3 bytes, padding allowed only in a final quantum,
and gives those bytes. -/
def Obligations.DecQAcceptsExactlyEncQ : Prop :=
  ∀ (c0 c1 c2 c3 : Byte) (final : Bool) (x : List Byte),
    decQ c0 c1 c2 c3 final = some x ↔
      (1 ≤ x.length ∧ x.length ≤ 3 ∧ encQ x = [c0, c1, c2, c3] ∧ (x.length < 3 → final = true))

/-- R205, R206: B64Dec accepts exactly the image of B64Enc and is its inverse, and B64Enc gives 4·ceil(|x|/3)
characters. -/
def Obligations.DecodeIsTheInverseOfEncode : Prop :=
  (∀ x : List Byte, b64Dec (b64Enc x) = some x ∧ (b64Enc x).length = 4 * ((x.length + 2) / 3))
  ∧ ∀ t x : List Byte, b64Dec t = some x → b64Enc x = t

/-- R201: B64E k encodes the k oldest bytes of DIN as one quantum, OUTLEN ← 4; k outside 1..3 takes IllegalCommand; with
fewer than k bytes it holds. -/
def Obligations.B64eEncodesOneQuantum : Prop :=
  ∀ (k : Byte) (s : State),
    encode (.b64e k) = 0x4000 + k.setWidth 16
    ∧ (k.toNat < 1 ∨ 3 < k.toNat → exec (.b64e k) s = .next (s.faultEntry .illegalCommand 0x40 k))
    ∧ (1 ≤ k.toNat → k.toNat ≤ 3 → s.din.length < k.toNat →
        exec (.b64e k) s = .next { s with busy := true, done := false, held := some (.b64e k) })
    ∧ (1 ≤ k.toNat → k.toNat ≤ 3 → k.toNat ≤ s.din.length →
        exec (.b64e k) s = .next
          { s with
            din := s.din.drop k.toNat, dout := s.dout ++ encQ (s.din.take k.toNat), outlen := 4, done := true
            busy := false, held := none })

/-- R202: B64D f decodes the four oldest characters, padding allowed only when f = 1; a rejected quantum takes
MalformedEnvelope and stays in DIN; f > 1 takes IllegalCommand; with fewer than 4 characters it holds. -/
def Obligations.B64dDecodesOneQuantum : Prop :=
  ∀ (f : Byte) (s : State),
    encode (.b64d f) = 0x4100 + f.setWidth 16
    ∧ (1 < f.toNat → exec (.b64d f) s = .next (s.faultEntry .illegalCommand 0x41 f))
    ∧ (f.toNat ≤ 1 → s.din.length < 4 →
        exec (.b64d f) s = .next { s with busy := true, done := false, held := some (.b64d f) })
    ∧ ∀ (c0 c1 c2 c3 : Byte) (rest : List Byte), f.toNat ≤ 1 → s.din = c0 :: c1 :: c2 :: c3 :: rest →
        (decQ c0 c1 c2 c3 (f == 1) = none → exec (.b64d f) s = .next (s.faultEntry .malformedEnvelope 0x41 f))
        ∧ ∀ x, decQ c0 c1 c2 c3 (f == 1) = some x →
            exec (.b64d f) s = .next
              { s with
                din := rest, dout := s.dout ++ x, outlen := BitVec.ofNat 64 x.length, done := true, busy := false
                held := none }

/-- R203: B64EM encodes the INLEN oldest bytes of DIN, OUTLEN ← 4·ceil(n/3) (claimed where it fits 64 bits, log entry
3); with fewer bytes it holds; it never faults. -/
def Obligations.B64emEncodesTheMessage : Prop :=
  encode .b64em = 0x4200
  ∧ (∀ s : State, s.din.length < s.inlen.toNat →
      exec .b64em s = .next { s with busy := true, done := false, held := some .b64em })
  ∧ ∀ s : State, s.inlen.toNat ≤ s.din.length →
      ∃ t, exec .b64em s = .next t
        ∧ (4 * ((s.inlen.toNat + 2) / 3) < 2 ^ 64 → t.outlen = BitVec.ofNat 64 (4 * ((s.inlen.toNat + 2) / 3)))
        ∧ t = { s with
            din := s.din.drop s.inlen.toNat, dout := s.dout ++ b64Enc (s.din.take s.inlen.toNat), outlen := t.outlen
            done := true, busy := false, held := none }

/-- R204: B64DM decodes the INLEN oldest characters of DIN, validated whole before anything is consumed; a rejected text
takes MalformedEnvelope; with fewer characters it holds. -/
def Obligations.B64dmDecodesTheMessage : Prop :=
  encode .b64dm = 0x4300
  ∧ (∀ s : State, s.din.length < s.inlen.toNat →
      exec .b64dm s = .next { s with busy := true, done := false, held := some .b64dm })
  ∧ (∀ s : State, s.inlen.toNat ≤ s.din.length → b64Dec (s.din.take s.inlen.toNat) = none →
      exec .b64dm s = .next (s.faultEntry .malformedEnvelope 0x43 0x00))
  ∧ ∀ (s : State) (x : List Byte), s.inlen.toNat ≤ s.din.length → b64Dec (s.din.take s.inlen.toNat) = some x →
      exec .b64dm s = .next
        { s with
          din := s.din.drop s.inlen.toNat, dout := s.dout ++ x, outlen := BitVec.ofNat 64 x.length, done := true
          busy := false, held := none }

/-! ## Faults (60_exceptions.md) -/

/-- R243: a command that raises a fault writes the fault record, STATUS and OUTLEN and nothing else; ERROP and ERRARG
are its own word, also for a macro command. -/
def Obligations.FaultsArePrecise : Prop :=
  ∀ (i : Instr) (s t : State), s.fault = false → exec i s = .next t → t.fault = true →
    ∃ e, e ≠ .noFault
      ∧ t = { s with
          err := e, errop := i.op, errarg := i.operand, fault := true, done := false, busy := false, outlen := 0
          held := none }

/-- R247: the first cause of the priority order decides: in the fault state a command is dropped; then IllegalCommand,
InvalidKeySize, SequenceError, then the hold, then MalformedEnvelope; a command with no cause completes. -/
def Obligations.CommandOutcomeFollowsThePriorityOrder : Prop :=
  (∀ (op : Byte) (s : State), s.fault = true → op ≠ 0x01 → s.issue op = .next s)
  ∧ (∀ (op : Byte) (s : State), s.fault = false → legalWord op s.arg = false →
      s.issue op = .next (s.faultEntry .illegalCommand op s.arg))
  ∧ ∀ (i : Instr) (s : State),
    (∀ e, faultAtIssue i s = some e → exec i s = .next (s.faultEntry e i.op i.operand))
    ∧ (faultAtIssue i s = none → s.din.length < inputNeeded s i →
        exec i s = .next { s with busy := true, done := false, held := some i })
    ∧ (faultAtIssue i s = none → inputNeeded s i ≤ s.din.length → inputMalformed s i = true →
        exec i s = .next (s.faultEntry .malformedEnvelope i.op i.operand))
    ∧ (faultAtIssue i s = none → inputNeeded s i ≤ s.din.length → inputMalformed s i = false → i ≠ .srst →
        ∃ t, exec i s = .next t ∧ t.done = true ∧ t.busy = false ∧ t.held = none ∧ t.fault = s.fault
          ∧ t.err = s.err ∧ t.errop = s.errop ∧ t.errarg = s.errarg)

/-- R245: in the fault state every CMD write but SRST is dropped without any change; register writes, pushes and reads
do what they do otherwise (a read of STATUS shows FAULT). -/
def Obligations.FaultStateDropsCommands : Prop :=
  ∀ s : State, s.fault = true →
    (∀ op, op ≠ 0x01 → s.hostWrite 0x000 op = .next s)
    ∧ (∀ (a : BitVec 12) (v : Byte) (t : State), a ≠ 0x000 → s.held = none →
        ({ s with fault := false } : State).hostWrite a v = .next t → s.hostWrite a v = .next { t with fault := true })
    ∧ ∀ a : BitVec 12, a ≠ 0x002 →
        s.hostRead a = { ({ s with fault := false } : State).hostRead a with fault := true }

/-- R248: a step leaves the fault state only by SRST or hardware reset, and then the machine is in the reset state; of the
environment only the event served is gone from the script. -/
def Obligations.FaultStateIsLeftOnlyByReset : Prop :=
  ∀ s t : State, s.StatusInv → s.fault = true → step s = .next t → t.fault = false →
    ∃ rest, (s.env.script = .reset :: rest ∨ s.env.script = .write 0x000 0x01 :: rest)
      ∧ t = { State.reset with env := { s.env with script := rest } }

/-! ## Rules about the whole machine -/

/-- R33: every command that completes leaves in OUTLEN the number of bytes it appended to DOUT (claimed where the number
fits 64 bits, log entry 3), and no command removes or changes a byte already in DOUT. -/
def Obligations.OutlenCountsThePushedBytes : Prop :=
  ∀ (i : Instr) (s t : State), exec i s = .next t → t.done = true →
    ∃ out, t.dout = s.dout ++ out ∧ (out.length < 2 ^ 64 → t.outlen = BitVec.ofNat 64 out.length)

/-- R21, R22, R32, R33: no command but SRST writes KEYBITS, PW, PWLEN, ARG or INLEN. -/
def Obligations.CommandsDoNotWriteTheHostsInputs : Prop :=
  ∀ (i : Instr) (s t : State), i ≠ .srst → exec i s = .next t →
    t.keybits = s.keybits ∧ t.pw = s.pw ∧ t.pwlen = s.pwlen ∧ t.arg = s.arg ∧ t.inlen = s.inlen

/-- R24: only KEXP, alone or inside DRVK, ENCR and DECR, and SRST write W and KSZ; no host register write does. -/
def Obligations.ScheduleIsWrittenByKexpOnly : Prop :=
  (∀ (i : Instr) (s t : State), i ≠ .kexp → i ≠ .drvk → i ≠ .encr → i ≠ .decr → i ≠ .srst → exec i s = .next t →
      t.w = s.w ∧ t.ksz = s.ksz)
  ∧ ∀ (s t : State) (a : BitVec 12) (v : Byte), a ≠ 0x000 → s.held = none → s.hostWrite a v = .next t →
      t.w = s.w ∧ t.ksz = s.ksz

/-- R253, R290: only GNNC and ENCR sample the clock, once each when they complete; no other command touches the
environment. -/
def Obligations.ClockIsSampledOncePerNonce : Prop :=
  ∀ (i : Instr) (s t : State), exec i s = .next t →
    (t.env = s.env ∨ ((i = .gnnc ∨ i = .encr) ∧ t.env = { s.env with draws := s.env.draws + 1 }))
    ∧ ((i = .gnnc ∨ i = .encr) → t.done = true → t.env = { s.env with draws := s.env.draws + 1 })

/-! ## Invariants -/

/-- The invariants hold right after reset. -/
def Obligations.InvariantsHoldAtReset : Prop :=
  State.reset.StatusInv ∧ State.reset.HoldInv ∧ State.reset.ScheduleInv

/-- R22, R30, R31, R230, R243: every step from a state whose control registers are consistent leads to such a state. -/
def Obligations.EveryStepKeepsStatusInv : Prop :=
  ∀ s t : State, s.StatusInv → step s = .next t → t.StatusInv

/-- R230: after every step a command in hold has passed its checks at issue and still lacks input. -/
def Obligations.EveryStepKeepsHoldInv : Prop :=
  ∀ s t : State, s.StatusInv → s.HoldInv → step s = .next t → t.HoldInv

/-- R24, R30: after every step W is the expansion of its own first Nk words for the Nk of KSZ, or has its reset value
when KSZ = 0; and NONCE has its reset value while NV = 0. -/
def Obligations.EveryStepKeepsScheduleInv : Prop :=
  ∀ s t : State, s.ScheduleInv → step s = .next t → t.ScheduleInv
end

