-- ==== Sys2Proof/Laws/Cipher.lean ====
section
/-! SUPPORT. What the pure functions of the cipher answer, entry by entry. -/

namespace Sys2Proof.Machine

@[simp] theorem cell_matOf (f : Fin 4 → Fin 4 → Byte) (r c : Fin 4) : cell (matOf f) r c = f r c := by
  simp [cell, matOf, Vector.get_eq_getElem]

theorem mat_ext_cell {t u : Mat} (h : ∀ r c, cell t r c = cell u r c) : t = u := by
  apply Vector.ext
  intro r hr
  apply Vector.ext
  intro c hc
  exact h ⟨r, hr⟩ ⟨c, hc⟩

theorem byteAt_of_lt {n : Nat} (v : Vector Byte n) (i : Nat) (h : i < n) : byteAt v i = v[i] := by
  simp [byteAt, List.getD_eq_getElem?_getD, h]

theorem byteAt_of_ge {n : Nat} (v : Vector Byte n) (i : Nat) (h : n ≤ i) : byteAt v i = 0 := by
  simp [byteAt, List.getD_eq_getElem?_getD, h]

@[simp] theorem getElem_arrayOf (n : Nat) (x : List Byte) (i : Nat) (h : i < n) : (arrayOf n x)[i] = x.getD i 0 := by
  simp [arrayOf]

theorem toList_arrayOf (n : Nat) (x : List Byte) (h : x.length = n) : (arrayOf n x).toList = x := by
  apply List.ext_getElem
  · simp [h]
  · intro i h1 h2
    simp [List.getD_eq_getElem?_getD, h2]

theorem length_be32 (v : BitVec 32) : (be32 v).length = 4 := rfl

theorem length_be64 (v : BitVec 64) : (be64 v).length = 8 := rfl

theorem length_xorBytes (x y : List Byte) : (xorBytes x y).length = min x.length y.length := by
  simp [xorBytes]

theorem length_pwBlock (pw : List Byte) (n : Nat) : (pwBlock pw n).length = n := by simp [pwBlock]

/-- Storing and loading are inverse to each other (R140). -/
theorem cell_loadMat (b : Block) (r c : Fin 4) : cell (loadMat b) r c = b[r.val + 4 * c.val] := by
  rw [loadMat, cell_matOf, byteAt_of_lt]

theorem length_expandStep (nk : Nat) (w : Schedule) (i : Nat) : (expandStep nk w i).length = w.length + 1 := by
  simp [expandStep]

theorem length_foldl_expandStep (nk : Nat) (is : List Nat) (w : Schedule) :
    (is.foldl (expandStep nk) w).length = w.length + is.length := by
  induction is generalizing w with
  | nil => simp
  | cons i is ih => rw [List.foldl_cons, ih, length_expandStep, List.length_cons]; omega

/-- A schedule for a key of `nk` words has `4·(Nr+1) = 4·(Nk+7)` words. -/
theorem length_expand (key : List Byte) (h : key.length / 4 ≤ 28) :
    (expand key).length = 4 * (key.length / 4 + 7) := by
  rw [expand, length_foldl_expandStep]
  simp only [List.length_map, List.length_range, List.length_range', scheduleLength]
  omega

end Sys2Proof.Machine
end

