-- ==== Sys2Proof/Laws/Decode.lean ====
section
/-! SUPPORT. The parts of a command word. -/

namespace Sys2Proof

@[simp] theorem wordOp_commandWord (op arg : Byte) : wordOp (commandWord op arg) = op := by
  ext i hi
  have h : 8 + i < 16 := by omega
  simp [wordOp, commandWord, hi, h, BitVec.getLsbD_of_ge]

@[simp] theorem wordArg_commandWord (op arg : Byte) : wordArg (commandWord op arg) = arg := by
  ext i hi
  have h : i < 16 := by omega
  simp [wordArg, commandWord, hi, h]

@[simp] theorem commandWord_parts (word : BitVec 16) : commandWord (wordOp word) (wordArg word) = word := by
  ext i hi
  by_cases h : i < 8
  · simp [wordOp, wordArg, commandWord, h, hi]
  · have h8 : 8 + (i - 8) = i := by omega
    have h16 : i - 8 < 8 := by omega
    simp [wordOp, wordArg, commandWord, h, h8, h16, hi]

theorem formatZ_eq_ok (op arg : Byte) (i j : Instr) : formatZ op arg i = .ok j ↔ arg = 0 ∧ i = j := by
  unfold formatZ
  split <;> simp_all

end Sys2Proof
end

