-- ==== Sys2Proof/Laws/State.lean ====
section
/-! SUPPORT. The small lemmas of the named updates of State: one per field per update, true by unfolding the update once, so that no later
proof unfolds a record update. -/

namespace Sys2Proof.Machine

/-! ### `State.accept` -/

@[simp] theorem State.accept_keybits (s : State) : s.accept.keybits = s.keybits := rfl
@[simp] theorem State.accept_pwlen (s : State) : s.accept.pwlen = s.pwlen := rfl
@[simp] theorem State.accept_pw (s : State) : s.accept.pw = s.pw := rfl
@[simp] theorem State.accept_key (s : State) : s.accept.key = s.key := rfl
@[simp] theorem State.accept_w (s : State) : s.accept.w = s.w := rfl
@[simp] theorem State.accept_mat (s : State) : s.accept.mat = s.mat := rfl
@[simp] theorem State.accept_blkin (s : State) : s.accept.blkin = s.blkin := rfl
@[simp] theorem State.accept_blkout (s : State) : s.accept.blkout = s.blkout := rfl
@[simp] theorem State.accept_nonce (s : State) : s.accept.nonce = s.nonce := rfl
@[simp] theorem State.accept_ctr (s : State) : s.accept.ctr = s.ctr := rfl
@[simp] theorem State.accept_inlen (s : State) : s.accept.inlen = s.inlen := rfl
@[simp] theorem State.accept_outlen (s : State) : s.accept.outlen = s.outlen := rfl
@[simp] theorem State.accept_arg (s : State) : s.accept.arg = s.arg := rfl
@[simp] theorem State.accept_busy (s : State) : s.accept.busy = true := rfl
@[simp] theorem State.accept_done (s : State) : s.accept.done = false := rfl
@[simp] theorem State.accept_fault (s : State) : s.accept.fault = s.fault := rfl
@[simp] theorem State.accept_nv (s : State) : s.accept.nv = s.nv := rfl
@[simp] theorem State.accept_ksz (s : State) : s.accept.ksz = s.ksz := rfl
@[simp] theorem State.accept_err (s : State) : s.accept.err = s.err := rfl
@[simp] theorem State.accept_errop (s : State) : s.accept.errop = s.errop := rfl
@[simp] theorem State.accept_errarg (s : State) : s.accept.errarg = s.errarg := rfl
@[simp] theorem State.accept_din (s : State) : s.accept.din = s.din := rfl
@[simp] theorem State.accept_dout (s : State) : s.accept.dout = s.dout := rfl
@[simp] theorem State.accept_held (s : State) : s.accept.held = s.held := rfl
@[simp] theorem State.accept_env (s : State) : s.accept.env = s.env := rfl

/-! ### `State.complete` -/

@[simp] theorem State.complete_keybits (n : Nat) (s : State) : (s.complete n).keybits = s.keybits := rfl
@[simp] theorem State.complete_pwlen (n : Nat) (s : State) : (s.complete n).pwlen = s.pwlen := rfl
@[simp] theorem State.complete_pw (n : Nat) (s : State) : (s.complete n).pw = s.pw := rfl
@[simp] theorem State.complete_key (n : Nat) (s : State) : (s.complete n).key = s.key := rfl
@[simp] theorem State.complete_w (n : Nat) (s : State) : (s.complete n).w = s.w := rfl
@[simp] theorem State.complete_mat (n : Nat) (s : State) : (s.complete n).mat = s.mat := rfl
@[simp] theorem State.complete_blkin (n : Nat) (s : State) : (s.complete n).blkin = s.blkin := rfl
@[simp] theorem State.complete_blkout (n : Nat) (s : State) : (s.complete n).blkout = s.blkout := rfl
@[simp] theorem State.complete_nonce (n : Nat) (s : State) : (s.complete n).nonce = s.nonce := rfl
@[simp] theorem State.complete_ctr (n : Nat) (s : State) : (s.complete n).ctr = s.ctr := rfl
@[simp] theorem State.complete_inlen (n : Nat) (s : State) : (s.complete n).inlen = s.inlen := rfl
@[simp] theorem State.complete_outlen (n : Nat) (s : State) : (s.complete n).outlen = count64 n := rfl
@[simp] theorem State.complete_arg (n : Nat) (s : State) : (s.complete n).arg = s.arg := rfl
@[simp] theorem State.complete_busy (n : Nat) (s : State) : (s.complete n).busy = false := rfl
@[simp] theorem State.complete_done (n : Nat) (s : State) : (s.complete n).done = true := rfl
@[simp] theorem State.complete_fault (n : Nat) (s : State) : (s.complete n).fault = s.fault := rfl
@[simp] theorem State.complete_nv (n : Nat) (s : State) : (s.complete n).nv = s.nv := rfl
@[simp] theorem State.complete_ksz (n : Nat) (s : State) : (s.complete n).ksz = s.ksz := rfl
@[simp] theorem State.complete_err (n : Nat) (s : State) : (s.complete n).err = s.err := rfl
@[simp] theorem State.complete_errop (n : Nat) (s : State) : (s.complete n).errop = s.errop := rfl
@[simp] theorem State.complete_errarg (n : Nat) (s : State) : (s.complete n).errarg = s.errarg := rfl
@[simp] theorem State.complete_din (n : Nat) (s : State) : (s.complete n).din = s.din := rfl
@[simp] theorem State.complete_dout (n : Nat) (s : State) : (s.complete n).dout = s.dout := rfl
@[simp] theorem State.complete_held (n : Nat) (s : State) : (s.complete n).held = none := rfl
@[simp] theorem State.complete_env (n : Nat) (s : State) : (s.complete n).env = s.env := rfl

/-! ### `State.faultEntry` -/

@[simp] theorem State.faultEntry_keybits (e : ErrCode) (op arg : Byte) (s : State) :
    (s.faultEntry e op arg).keybits = s.keybits :=
  rfl
@[simp] theorem State.faultEntry_pwlen (e : ErrCode) (op arg : Byte) (s : State) :
    (s.faultEntry e op arg).pwlen = s.pwlen :=
  rfl
@[simp] theorem State.faultEntry_pw (e : ErrCode) (op arg : Byte) (s : State) : (s.faultEntry e op arg).pw = s.pw := rfl
@[simp] theorem State.faultEntry_key (e : ErrCode) (op arg : Byte) (s : State) :
    (s.faultEntry e op arg).key = s.key :=
  rfl
@[simp] theorem State.faultEntry_w (e : ErrCode) (op arg : Byte) (s : State) : (s.faultEntry e op arg).w = s.w := rfl
@[simp] theorem State.faultEntry_mat (e : ErrCode) (op arg : Byte) (s : State) :
    (s.faultEntry e op arg).mat = s.mat :=
  rfl
@[simp] theorem State.faultEntry_blkin (e : ErrCode) (op arg : Byte) (s : State) :
    (s.faultEntry e op arg).blkin = s.blkin :=
  rfl
@[simp] theorem State.faultEntry_blkout (e : ErrCode) (op arg : Byte) (s : State) :
    (s.faultEntry e op arg).blkout = s.blkout :=
  rfl
@[simp] theorem State.faultEntry_nonce (e : ErrCode) (op arg : Byte) (s : State) :
    (s.faultEntry e op arg).nonce = s.nonce :=
  rfl
@[simp] theorem State.faultEntry_ctr (e : ErrCode) (op arg : Byte) (s : State) :
    (s.faultEntry e op arg).ctr = s.ctr :=
  rfl
@[simp] theorem State.faultEntry_inlen (e : ErrCode) (op arg : Byte) (s : State) :
    (s.faultEntry e op arg).inlen = s.inlen :=
  rfl
@[simp] theorem State.faultEntry_outlen (e : ErrCode) (op arg : Byte) (s : State) :
    (s.faultEntry e op arg).outlen = 0 :=
  rfl
@[simp] theorem State.faultEntry_arg (e : ErrCode) (op arg : Byte) (s : State) :
    (s.faultEntry e op arg).arg = s.arg :=
  rfl
@[simp] theorem State.faultEntry_busy (e : ErrCode) (op arg : Byte) (s : State) :
    (s.faultEntry e op arg).busy = false :=
  rfl
@[simp] theorem State.faultEntry_done (e : ErrCode) (op arg : Byte) (s : State) :
    (s.faultEntry e op arg).done = false :=
  rfl
@[simp] theorem State.faultEntry_fault (e : ErrCode) (op arg : Byte) (s : State) :
    (s.faultEntry e op arg).fault = true :=
  rfl
@[simp] theorem State.faultEntry_nv (e : ErrCode) (op arg : Byte) (s : State) : (s.faultEntry e op arg).nv = s.nv := rfl
@[simp] theorem State.faultEntry_ksz (e : ErrCode) (op arg : Byte) (s : State) :
    (s.faultEntry e op arg).ksz = s.ksz :=
  rfl
@[simp] theorem State.faultEntry_err (e : ErrCode) (op arg : Byte) (s : State) : (s.faultEntry e op arg).err = e := rfl
@[simp] theorem State.faultEntry_errop (e : ErrCode) (op arg : Byte) (s : State) :
    (s.faultEntry e op arg).errop = op :=
  rfl
@[simp] theorem State.faultEntry_errarg (e : ErrCode) (op arg : Byte) (s : State) :
    (s.faultEntry e op arg).errarg = arg :=
  rfl
@[simp] theorem State.faultEntry_din (e : ErrCode) (op arg : Byte) (s : State) :
    (s.faultEntry e op arg).din = s.din :=
  rfl
@[simp] theorem State.faultEntry_dout (e : ErrCode) (op arg : Byte) (s : State) :
    (s.faultEntry e op arg).dout = s.dout :=
  rfl
@[simp] theorem State.faultEntry_held (e : ErrCode) (op arg : Byte) (s : State) :
    (s.faultEntry e op arg).held = none :=
  rfl
@[simp] theorem State.faultEntry_env (e : ErrCode) (op arg : Byte) (s : State) :
    (s.faultEntry e op arg).env = s.env :=
  rfl

/-! ### `State.enterHold` -/

@[simp] theorem State.enterHold_keybits (i : Instr) (s : State) : (s.enterHold i).keybits = s.keybits := rfl
@[simp] theorem State.enterHold_pwlen (i : Instr) (s : State) : (s.enterHold i).pwlen = s.pwlen := rfl
@[simp] theorem State.enterHold_pw (i : Instr) (s : State) : (s.enterHold i).pw = s.pw := rfl
@[simp] theorem State.enterHold_key (i : Instr) (s : State) : (s.enterHold i).key = s.key := rfl
@[simp] theorem State.enterHold_w (i : Instr) (s : State) : (s.enterHold i).w = s.w := rfl
@[simp] theorem State.enterHold_mat (i : Instr) (s : State) : (s.enterHold i).mat = s.mat := rfl
@[simp] theorem State.enterHold_blkin (i : Instr) (s : State) : (s.enterHold i).blkin = s.blkin := rfl
@[simp] theorem State.enterHold_blkout (i : Instr) (s : State) : (s.enterHold i).blkout = s.blkout := rfl
@[simp] theorem State.enterHold_nonce (i : Instr) (s : State) : (s.enterHold i).nonce = s.nonce := rfl
@[simp] theorem State.enterHold_ctr (i : Instr) (s : State) : (s.enterHold i).ctr = s.ctr := rfl
@[simp] theorem State.enterHold_inlen (i : Instr) (s : State) : (s.enterHold i).inlen = s.inlen := rfl
@[simp] theorem State.enterHold_outlen (i : Instr) (s : State) : (s.enterHold i).outlen = s.outlen := rfl
@[simp] theorem State.enterHold_arg (i : Instr) (s : State) : (s.enterHold i).arg = s.arg := rfl
@[simp] theorem State.enterHold_busy (i : Instr) (s : State) : (s.enterHold i).busy = true := rfl
@[simp] theorem State.enterHold_done (i : Instr) (s : State) : (s.enterHold i).done = false := rfl
@[simp] theorem State.enterHold_fault (i : Instr) (s : State) : (s.enterHold i).fault = s.fault := rfl
@[simp] theorem State.enterHold_nv (i : Instr) (s : State) : (s.enterHold i).nv = s.nv := rfl
@[simp] theorem State.enterHold_ksz (i : Instr) (s : State) : (s.enterHold i).ksz = s.ksz := rfl
@[simp] theorem State.enterHold_err (i : Instr) (s : State) : (s.enterHold i).err = s.err := rfl
@[simp] theorem State.enterHold_errop (i : Instr) (s : State) : (s.enterHold i).errop = s.errop := rfl
@[simp] theorem State.enterHold_errarg (i : Instr) (s : State) : (s.enterHold i).errarg = s.errarg := rfl
@[simp] theorem State.enterHold_din (i : Instr) (s : State) : (s.enterHold i).din = s.din := rfl
@[simp] theorem State.enterHold_dout (i : Instr) (s : State) : (s.enterHold i).dout = s.dout := rfl
@[simp] theorem State.enterHold_held (i : Instr) (s : State) : (s.enterHold i).held = some i := rfl
@[simp] theorem State.enterHold_env (i : Instr) (s : State) : (s.enterHold i).env = s.env := rfl

/-! ### `State.dropIn` -/

@[simp] theorem State.dropIn_keybits (n : Nat) (s : State) : (s.dropIn n).keybits = s.keybits := rfl
@[simp] theorem State.dropIn_pwlen (n : Nat) (s : State) : (s.dropIn n).pwlen = s.pwlen := rfl
@[simp] theorem State.dropIn_pw (n : Nat) (s : State) : (s.dropIn n).pw = s.pw := rfl
@[simp] theorem State.dropIn_key (n : Nat) (s : State) : (s.dropIn n).key = s.key := rfl
@[simp] theorem State.dropIn_w (n : Nat) (s : State) : (s.dropIn n).w = s.w := rfl
@[simp] theorem State.dropIn_mat (n : Nat) (s : State) : (s.dropIn n).mat = s.mat := rfl
@[simp] theorem State.dropIn_blkin (n : Nat) (s : State) : (s.dropIn n).blkin = s.blkin := rfl
@[simp] theorem State.dropIn_blkout (n : Nat) (s : State) : (s.dropIn n).blkout = s.blkout := rfl
@[simp] theorem State.dropIn_nonce (n : Nat) (s : State) : (s.dropIn n).nonce = s.nonce := rfl
@[simp] theorem State.dropIn_ctr (n : Nat) (s : State) : (s.dropIn n).ctr = s.ctr := rfl
@[simp] theorem State.dropIn_inlen (n : Nat) (s : State) : (s.dropIn n).inlen = s.inlen := rfl
@[simp] theorem State.dropIn_outlen (n : Nat) (s : State) : (s.dropIn n).outlen = s.outlen := rfl
@[simp] theorem State.dropIn_arg (n : Nat) (s : State) : (s.dropIn n).arg = s.arg := rfl
@[simp] theorem State.dropIn_busy (n : Nat) (s : State) : (s.dropIn n).busy = s.busy := rfl
@[simp] theorem State.dropIn_done (n : Nat) (s : State) : (s.dropIn n).done = s.done := rfl
@[simp] theorem State.dropIn_fault (n : Nat) (s : State) : (s.dropIn n).fault = s.fault := rfl
@[simp] theorem State.dropIn_nv (n : Nat) (s : State) : (s.dropIn n).nv = s.nv := rfl
@[simp] theorem State.dropIn_ksz (n : Nat) (s : State) : (s.dropIn n).ksz = s.ksz := rfl
@[simp] theorem State.dropIn_err (n : Nat) (s : State) : (s.dropIn n).err = s.err := rfl
@[simp] theorem State.dropIn_errop (n : Nat) (s : State) : (s.dropIn n).errop = s.errop := rfl
@[simp] theorem State.dropIn_errarg (n : Nat) (s : State) : (s.dropIn n).errarg = s.errarg := rfl
@[simp] theorem State.dropIn_din (n : Nat) (s : State) : (s.dropIn n).din = s.din.drop n := rfl
@[simp] theorem State.dropIn_dout (n : Nat) (s : State) : (s.dropIn n).dout = s.dout := rfl
@[simp] theorem State.dropIn_held (n : Nat) (s : State) : (s.dropIn n).held = s.held := rfl
@[simp] theorem State.dropIn_env (n : Nat) (s : State) : (s.dropIn n).env = s.env := rfl

/-! ### `State.pushOut` -/

@[simp] theorem State.pushOut_keybits (x : List Byte) (s : State) : (s.pushOut x).keybits = s.keybits := rfl
@[simp] theorem State.pushOut_pwlen (x : List Byte) (s : State) : (s.pushOut x).pwlen = s.pwlen := rfl
@[simp] theorem State.pushOut_pw (x : List Byte) (s : State) : (s.pushOut x).pw = s.pw := rfl
@[simp] theorem State.pushOut_key (x : List Byte) (s : State) : (s.pushOut x).key = s.key := rfl
@[simp] theorem State.pushOut_w (x : List Byte) (s : State) : (s.pushOut x).w = s.w := rfl
@[simp] theorem State.pushOut_mat (x : List Byte) (s : State) : (s.pushOut x).mat = s.mat := rfl
@[simp] theorem State.pushOut_blkin (x : List Byte) (s : State) : (s.pushOut x).blkin = s.blkin := rfl
@[simp] theorem State.pushOut_blkout (x : List Byte) (s : State) : (s.pushOut x).blkout = s.blkout := rfl
@[simp] theorem State.pushOut_nonce (x : List Byte) (s : State) : (s.pushOut x).nonce = s.nonce := rfl
@[simp] theorem State.pushOut_ctr (x : List Byte) (s : State) : (s.pushOut x).ctr = s.ctr := rfl
@[simp] theorem State.pushOut_inlen (x : List Byte) (s : State) : (s.pushOut x).inlen = s.inlen := rfl
@[simp] theorem State.pushOut_outlen (x : List Byte) (s : State) : (s.pushOut x).outlen = s.outlen := rfl
@[simp] theorem State.pushOut_arg (x : List Byte) (s : State) : (s.pushOut x).arg = s.arg := rfl
@[simp] theorem State.pushOut_busy (x : List Byte) (s : State) : (s.pushOut x).busy = s.busy := rfl
@[simp] theorem State.pushOut_done (x : List Byte) (s : State) : (s.pushOut x).done = s.done := rfl
@[simp] theorem State.pushOut_fault (x : List Byte) (s : State) : (s.pushOut x).fault = s.fault := rfl
@[simp] theorem State.pushOut_nv (x : List Byte) (s : State) : (s.pushOut x).nv = s.nv := rfl
@[simp] theorem State.pushOut_ksz (x : List Byte) (s : State) : (s.pushOut x).ksz = s.ksz := rfl
@[simp] theorem State.pushOut_err (x : List Byte) (s : State) : (s.pushOut x).err = s.err := rfl
@[simp] theorem State.pushOut_errop (x : List Byte) (s : State) : (s.pushOut x).errop = s.errop := rfl
@[simp] theorem State.pushOut_errarg (x : List Byte) (s : State) : (s.pushOut x).errarg = s.errarg := rfl
@[simp] theorem State.pushOut_din (x : List Byte) (s : State) : (s.pushOut x).din = s.din := rfl
@[simp] theorem State.pushOut_dout (x : List Byte) (s : State) : (s.pushOut x).dout = s.dout ++ x := rfl
@[simp] theorem State.pushOut_held (x : List Byte) (s : State) : (s.pushOut x).held = s.held := rfl
@[simp] theorem State.pushOut_env (x : List Byte) (s : State) : (s.pushOut x).env = s.env := rfl

/-! ### `State.countSample` -/

@[simp] theorem State.countSample_keybits (s : State) : s.countSample.keybits = s.keybits := rfl
@[simp] theorem State.countSample_pwlen (s : State) : s.countSample.pwlen = s.pwlen := rfl
@[simp] theorem State.countSample_pw (s : State) : s.countSample.pw = s.pw := rfl
@[simp] theorem State.countSample_key (s : State) : s.countSample.key = s.key := rfl
@[simp] theorem State.countSample_w (s : State) : s.countSample.w = s.w := rfl
@[simp] theorem State.countSample_mat (s : State) : s.countSample.mat = s.mat := rfl
@[simp] theorem State.countSample_blkin (s : State) : s.countSample.blkin = s.blkin := rfl
@[simp] theorem State.countSample_blkout (s : State) : s.countSample.blkout = s.blkout := rfl
@[simp] theorem State.countSample_nonce (s : State) : s.countSample.nonce = s.nonce := rfl
@[simp] theorem State.countSample_ctr (s : State) : s.countSample.ctr = s.ctr := rfl
@[simp] theorem State.countSample_inlen (s : State) : s.countSample.inlen = s.inlen := rfl
@[simp] theorem State.countSample_outlen (s : State) : s.countSample.outlen = s.outlen := rfl
@[simp] theorem State.countSample_arg (s : State) : s.countSample.arg = s.arg := rfl
@[simp] theorem State.countSample_busy (s : State) : s.countSample.busy = s.busy := rfl
@[simp] theorem State.countSample_done (s : State) : s.countSample.done = s.done := rfl
@[simp] theorem State.countSample_fault (s : State) : s.countSample.fault = s.fault := rfl
@[simp] theorem State.countSample_nv (s : State) : s.countSample.nv = s.nv := rfl
@[simp] theorem State.countSample_ksz (s : State) : s.countSample.ksz = s.ksz := rfl
@[simp] theorem State.countSample_err (s : State) : s.countSample.err = s.err := rfl
@[simp] theorem State.countSample_errop (s : State) : s.countSample.errop = s.errop := rfl
@[simp] theorem State.countSample_errarg (s : State) : s.countSample.errarg = s.errarg := rfl
@[simp] theorem State.countSample_din (s : State) : s.countSample.din = s.din := rfl
@[simp] theorem State.countSample_dout (s : State) : s.countSample.dout = s.dout := rfl
@[simp] theorem State.countSample_held (s : State) : s.countSample.held = s.held := rfl
@[simp] theorem State.countSample_env (s : State) : s.countSample.env = { s.env with draws := s.env.draws + 1 } := rfl

/-! ### `State.loadS` -/

@[simp] theorem State.loadS_keybits (s : State) : s.loadS.keybits = s.keybits := rfl
@[simp] theorem State.loadS_pwlen (s : State) : s.loadS.pwlen = s.pwlen := rfl
@[simp] theorem State.loadS_pw (s : State) : s.loadS.pw = s.pw := rfl
@[simp] theorem State.loadS_key (s : State) : s.loadS.key = s.key := rfl
@[simp] theorem State.loadS_w (s : State) : s.loadS.w = s.w := rfl
@[simp] theorem State.loadS_mat (s : State) : s.loadS.mat = loadMat s.blkin := rfl
@[simp] theorem State.loadS_blkin (s : State) : s.loadS.blkin = s.blkin := rfl
@[simp] theorem State.loadS_blkout (s : State) : s.loadS.blkout = s.blkout := rfl
@[simp] theorem State.loadS_nonce (s : State) : s.loadS.nonce = s.nonce := rfl
@[simp] theorem State.loadS_ctr (s : State) : s.loadS.ctr = s.ctr := rfl
@[simp] theorem State.loadS_inlen (s : State) : s.loadS.inlen = s.inlen := rfl
@[simp] theorem State.loadS_outlen (s : State) : s.loadS.outlen = s.outlen := rfl
@[simp] theorem State.loadS_arg (s : State) : s.loadS.arg = s.arg := rfl
@[simp] theorem State.loadS_busy (s : State) : s.loadS.busy = s.busy := rfl
@[simp] theorem State.loadS_done (s : State) : s.loadS.done = s.done := rfl
@[simp] theorem State.loadS_fault (s : State) : s.loadS.fault = s.fault := rfl
@[simp] theorem State.loadS_nv (s : State) : s.loadS.nv = s.nv := rfl
@[simp] theorem State.loadS_ksz (s : State) : s.loadS.ksz = s.ksz := rfl
@[simp] theorem State.loadS_err (s : State) : s.loadS.err = s.err := rfl
@[simp] theorem State.loadS_errop (s : State) : s.loadS.errop = s.errop := rfl
@[simp] theorem State.loadS_errarg (s : State) : s.loadS.errarg = s.errarg := rfl
@[simp] theorem State.loadS_din (s : State) : s.loadS.din = s.din := rfl
@[simp] theorem State.loadS_dout (s : State) : s.loadS.dout = s.dout := rfl
@[simp] theorem State.loadS_held (s : State) : s.loadS.held = s.held := rfl
@[simp] theorem State.loadS_env (s : State) : s.loadS.env = s.env := rfl

/-! ### `State.subS` -/

@[simp] theorem State.subS_keybits (s : State) : s.subS.keybits = s.keybits := rfl
@[simp] theorem State.subS_pwlen (s : State) : s.subS.pwlen = s.pwlen := rfl
@[simp] theorem State.subS_pw (s : State) : s.subS.pw = s.pw := rfl
@[simp] theorem State.subS_key (s : State) : s.subS.key = s.key := rfl
@[simp] theorem State.subS_w (s : State) : s.subS.w = s.w := rfl
@[simp] theorem State.subS_mat (s : State) : s.subS.mat = subBytes s.mat := rfl
@[simp] theorem State.subS_blkin (s : State) : s.subS.blkin = s.blkin := rfl
@[simp] theorem State.subS_blkout (s : State) : s.subS.blkout = s.blkout := rfl
@[simp] theorem State.subS_nonce (s : State) : s.subS.nonce = s.nonce := rfl
@[simp] theorem State.subS_ctr (s : State) : s.subS.ctr = s.ctr := rfl
@[simp] theorem State.subS_inlen (s : State) : s.subS.inlen = s.inlen := rfl
@[simp] theorem State.subS_outlen (s : State) : s.subS.outlen = s.outlen := rfl
@[simp] theorem State.subS_arg (s : State) : s.subS.arg = s.arg := rfl
@[simp] theorem State.subS_busy (s : State) : s.subS.busy = s.busy := rfl
@[simp] theorem State.subS_done (s : State) : s.subS.done = s.done := rfl
@[simp] theorem State.subS_fault (s : State) : s.subS.fault = s.fault := rfl
@[simp] theorem State.subS_nv (s : State) : s.subS.nv = s.nv := rfl
@[simp] theorem State.subS_ksz (s : State) : s.subS.ksz = s.ksz := rfl
@[simp] theorem State.subS_err (s : State) : s.subS.err = s.err := rfl
@[simp] theorem State.subS_errop (s : State) : s.subS.errop = s.errop := rfl
@[simp] theorem State.subS_errarg (s : State) : s.subS.errarg = s.errarg := rfl
@[simp] theorem State.subS_din (s : State) : s.subS.din = s.din := rfl
@[simp] theorem State.subS_dout (s : State) : s.subS.dout = s.dout := rfl
@[simp] theorem State.subS_held (s : State) : s.subS.held = s.held := rfl
@[simp] theorem State.subS_env (s : State) : s.subS.env = s.env := rfl

/-! ### `State.shiftS` -/

@[simp] theorem State.shiftS_keybits (s : State) : s.shiftS.keybits = s.keybits := rfl
@[simp] theorem State.shiftS_pwlen (s : State) : s.shiftS.pwlen = s.pwlen := rfl
@[simp] theorem State.shiftS_pw (s : State) : s.shiftS.pw = s.pw := rfl
@[simp] theorem State.shiftS_key (s : State) : s.shiftS.key = s.key := rfl
@[simp] theorem State.shiftS_w (s : State) : s.shiftS.w = s.w := rfl
@[simp] theorem State.shiftS_mat (s : State) : s.shiftS.mat = shiftRows s.mat := rfl
@[simp] theorem State.shiftS_blkin (s : State) : s.shiftS.blkin = s.blkin := rfl
@[simp] theorem State.shiftS_blkout (s : State) : s.shiftS.blkout = s.blkout := rfl
@[simp] theorem State.shiftS_nonce (s : State) : s.shiftS.nonce = s.nonce := rfl
@[simp] theorem State.shiftS_ctr (s : State) : s.shiftS.ctr = s.ctr := rfl
@[simp] theorem State.shiftS_inlen (s : State) : s.shiftS.inlen = s.inlen := rfl
@[simp] theorem State.shiftS_outlen (s : State) : s.shiftS.outlen = s.outlen := rfl
@[simp] theorem State.shiftS_arg (s : State) : s.shiftS.arg = s.arg := rfl
@[simp] theorem State.shiftS_busy (s : State) : s.shiftS.busy = s.busy := rfl
@[simp] theorem State.shiftS_done (s : State) : s.shiftS.done = s.done := rfl
@[simp] theorem State.shiftS_fault (s : State) : s.shiftS.fault = s.fault := rfl
@[simp] theorem State.shiftS_nv (s : State) : s.shiftS.nv = s.nv := rfl
@[simp] theorem State.shiftS_ksz (s : State) : s.shiftS.ksz = s.ksz := rfl
@[simp] theorem State.shiftS_err (s : State) : s.shiftS.err = s.err := rfl
@[simp] theorem State.shiftS_errop (s : State) : s.shiftS.errop = s.errop := rfl
@[simp] theorem State.shiftS_errarg (s : State) : s.shiftS.errarg = s.errarg := rfl
@[simp] theorem State.shiftS_din (s : State) : s.shiftS.din = s.din := rfl
@[simp] theorem State.shiftS_dout (s : State) : s.shiftS.dout = s.dout := rfl
@[simp] theorem State.shiftS_held (s : State) : s.shiftS.held = s.held := rfl
@[simp] theorem State.shiftS_env (s : State) : s.shiftS.env = s.env := rfl

/-! ### `State.mixS` -/

@[simp] theorem State.mixS_keybits (s : State) : s.mixS.keybits = s.keybits := rfl
@[simp] theorem State.mixS_pwlen (s : State) : s.mixS.pwlen = s.pwlen := rfl
@[simp] theorem State.mixS_pw (s : State) : s.mixS.pw = s.pw := rfl
@[simp] theorem State.mixS_key (s : State) : s.mixS.key = s.key := rfl
@[simp] theorem State.mixS_w (s : State) : s.mixS.w = s.w := rfl
@[simp] theorem State.mixS_mat (s : State) : s.mixS.mat = mixColumns s.mat := rfl
@[simp] theorem State.mixS_blkin (s : State) : s.mixS.blkin = s.blkin := rfl
@[simp] theorem State.mixS_blkout (s : State) : s.mixS.blkout = s.blkout := rfl
@[simp] theorem State.mixS_nonce (s : State) : s.mixS.nonce = s.nonce := rfl
@[simp] theorem State.mixS_ctr (s : State) : s.mixS.ctr = s.ctr := rfl
@[simp] theorem State.mixS_inlen (s : State) : s.mixS.inlen = s.inlen := rfl
@[simp] theorem State.mixS_outlen (s : State) : s.mixS.outlen = s.outlen := rfl
@[simp] theorem State.mixS_arg (s : State) : s.mixS.arg = s.arg := rfl
@[simp] theorem State.mixS_busy (s : State) : s.mixS.busy = s.busy := rfl
@[simp] theorem State.mixS_done (s : State) : s.mixS.done = s.done := rfl
@[simp] theorem State.mixS_fault (s : State) : s.mixS.fault = s.fault := rfl
@[simp] theorem State.mixS_nv (s : State) : s.mixS.nv = s.nv := rfl
@[simp] theorem State.mixS_ksz (s : State) : s.mixS.ksz = s.ksz := rfl
@[simp] theorem State.mixS_err (s : State) : s.mixS.err = s.err := rfl
@[simp] theorem State.mixS_errop (s : State) : s.mixS.errop = s.errop := rfl
@[simp] theorem State.mixS_errarg (s : State) : s.mixS.errarg = s.errarg := rfl
@[simp] theorem State.mixS_din (s : State) : s.mixS.din = s.din := rfl
@[simp] theorem State.mixS_dout (s : State) : s.mixS.dout = s.dout := rfl
@[simp] theorem State.mixS_held (s : State) : s.mixS.held = s.held := rfl
@[simp] theorem State.mixS_env (s : State) : s.mixS.env = s.env := rfl

/-! ### `State.addKeyS` -/

@[simp] theorem State.addKeyS_keybits (round : Nat) (s : State) : (s.addKeyS round).keybits = s.keybits := rfl
@[simp] theorem State.addKeyS_pwlen (round : Nat) (s : State) : (s.addKeyS round).pwlen = s.pwlen := rfl
@[simp] theorem State.addKeyS_pw (round : Nat) (s : State) : (s.addKeyS round).pw = s.pw := rfl
@[simp] theorem State.addKeyS_key (round : Nat) (s : State) : (s.addKeyS round).key = s.key := rfl
@[simp] theorem State.addKeyS_w (round : Nat) (s : State) : (s.addKeyS round).w = s.w := rfl
@[simp] theorem State.addKeyS_mat (round : Nat) (s : State) :
    (s.addKeyS round).mat = addRoundKey s.mat s.w.toList round :=
  rfl
@[simp] theorem State.addKeyS_blkin (round : Nat) (s : State) : (s.addKeyS round).blkin = s.blkin := rfl
@[simp] theorem State.addKeyS_blkout (round : Nat) (s : State) : (s.addKeyS round).blkout = s.blkout := rfl
@[simp] theorem State.addKeyS_nonce (round : Nat) (s : State) : (s.addKeyS round).nonce = s.nonce := rfl
@[simp] theorem State.addKeyS_ctr (round : Nat) (s : State) : (s.addKeyS round).ctr = s.ctr := rfl
@[simp] theorem State.addKeyS_inlen (round : Nat) (s : State) : (s.addKeyS round).inlen = s.inlen := rfl
@[simp] theorem State.addKeyS_outlen (round : Nat) (s : State) : (s.addKeyS round).outlen = s.outlen := rfl
@[simp] theorem State.addKeyS_arg (round : Nat) (s : State) : (s.addKeyS round).arg = s.arg := rfl
@[simp] theorem State.addKeyS_busy (round : Nat) (s : State) : (s.addKeyS round).busy = s.busy := rfl
@[simp] theorem State.addKeyS_done (round : Nat) (s : State) : (s.addKeyS round).done = s.done := rfl
@[simp] theorem State.addKeyS_fault (round : Nat) (s : State) : (s.addKeyS round).fault = s.fault := rfl
@[simp] theorem State.addKeyS_nv (round : Nat) (s : State) : (s.addKeyS round).nv = s.nv := rfl
@[simp] theorem State.addKeyS_ksz (round : Nat) (s : State) : (s.addKeyS round).ksz = s.ksz := rfl
@[simp] theorem State.addKeyS_err (round : Nat) (s : State) : (s.addKeyS round).err = s.err := rfl
@[simp] theorem State.addKeyS_errop (round : Nat) (s : State) : (s.addKeyS round).errop = s.errop := rfl
@[simp] theorem State.addKeyS_errarg (round : Nat) (s : State) : (s.addKeyS round).errarg = s.errarg := rfl
@[simp] theorem State.addKeyS_din (round : Nat) (s : State) : (s.addKeyS round).din = s.din := rfl
@[simp] theorem State.addKeyS_dout (round : Nat) (s : State) : (s.addKeyS round).dout = s.dout := rfl
@[simp] theorem State.addKeyS_held (round : Nat) (s : State) : (s.addKeyS round).held = s.held := rfl
@[simp] theorem State.addKeyS_env (round : Nat) (s : State) : (s.addKeyS round).env = s.env := rfl

/-! ### `State.storeS` -/

@[simp] theorem State.storeS_keybits (s : State) : s.storeS.keybits = s.keybits := by simp only [State.storeS]
@[simp] theorem State.storeS_pwlen (s : State) : s.storeS.pwlen = s.pwlen := by simp only [State.storeS]
@[simp] theorem State.storeS_pw (s : State) : s.storeS.pw = s.pw := by simp only [State.storeS]
@[simp] theorem State.storeS_key (s : State) : s.storeS.key = s.key := by simp only [State.storeS]
@[simp] theorem State.storeS_w (s : State) : s.storeS.w = s.w := by simp only [State.storeS]
@[simp] theorem State.storeS_mat (s : State) : s.storeS.mat = s.mat := by simp only [State.storeS]
@[simp] theorem State.storeS_blkin (s : State) : s.storeS.blkin = s.blkin := by simp only [State.storeS]
@[simp] theorem State.storeS_blkout (s : State) : s.storeS.blkout = storeMat s.mat := by simp only [State.storeS]
@[simp] theorem State.storeS_nonce (s : State) : s.storeS.nonce = s.nonce := by simp only [State.storeS]
@[simp] theorem State.storeS_ctr (s : State) : s.storeS.ctr = s.ctr := by simp only [State.storeS]
@[simp] theorem State.storeS_inlen (s : State) : s.storeS.inlen = s.inlen := by simp only [State.storeS]
@[simp] theorem State.storeS_outlen (s : State) : s.storeS.outlen = s.outlen := by simp only [State.storeS]
@[simp] theorem State.storeS_arg (s : State) : s.storeS.arg = s.arg := by simp only [State.storeS]
@[simp] theorem State.storeS_busy (s : State) : s.storeS.busy = s.busy := by simp only [State.storeS]
@[simp] theorem State.storeS_done (s : State) : s.storeS.done = s.done := by simp only [State.storeS]
@[simp] theorem State.storeS_fault (s : State) : s.storeS.fault = s.fault := by simp only [State.storeS]
@[simp] theorem State.storeS_nv (s : State) : s.storeS.nv = s.nv := by simp only [State.storeS]
@[simp] theorem State.storeS_ksz (s : State) : s.storeS.ksz = s.ksz := by simp only [State.storeS]
@[simp] theorem State.storeS_err (s : State) : s.storeS.err = s.err := by simp only [State.storeS]
@[simp] theorem State.storeS_errop (s : State) : s.storeS.errop = s.errop := by simp only [State.storeS]
@[simp] theorem State.storeS_errarg (s : State) : s.storeS.errarg = s.errarg := by simp only [State.storeS]
@[simp] theorem State.storeS_din (s : State) : s.storeS.din = s.din := by simp only [State.storeS]
@[simp] theorem State.storeS_dout (s : State) : s.storeS.dout = s.dout := by simp only [State.storeS]
@[simp] theorem State.storeS_held (s : State) : s.storeS.held = s.held := by simp only [State.storeS]
@[simp] theorem State.storeS_env (s : State) : s.storeS.env = s.env := by simp only [State.storeS]

/-! ### `State.expandKey` -/

@[simp] theorem State.expandKey_keybits (s : State) : s.expandKey.keybits = s.keybits := by simp only [State.expandKey]
@[simp] theorem State.expandKey_pwlen (s : State) : s.expandKey.pwlen = s.pwlen := by simp only [State.expandKey]
@[simp] theorem State.expandKey_pw (s : State) : s.expandKey.pw = s.pw := by simp only [State.expandKey]
@[simp] theorem State.expandKey_key (s : State) : s.expandKey.key = s.key := by simp only [State.expandKey]
@[simp] theorem State.expandKey_w (s : State) :
    s.expandKey.w = Vector.ofFn fun i => (expand (s.key.toList.take s.keyLen)).getD i.val (s.w.get i) :=
  by simp only [State.expandKey]
@[simp] theorem State.expandKey_mat (s : State) : s.expandKey.mat = s.mat := by simp only [State.expandKey]
@[simp] theorem State.expandKey_blkin (s : State) : s.expandKey.blkin = s.blkin := by simp only [State.expandKey]
@[simp] theorem State.expandKey_blkout (s : State) : s.expandKey.blkout = s.blkout := by simp only [State.expandKey]
@[simp] theorem State.expandKey_nonce (s : State) : s.expandKey.nonce = s.nonce := by simp only [State.expandKey]
@[simp] theorem State.expandKey_ctr (s : State) : s.expandKey.ctr = s.ctr := by simp only [State.expandKey]
@[simp] theorem State.expandKey_inlen (s : State) : s.expandKey.inlen = s.inlen := by simp only [State.expandKey]
@[simp] theorem State.expandKey_outlen (s : State) : s.expandKey.outlen = s.outlen := by simp only [State.expandKey]
@[simp] theorem State.expandKey_arg (s : State) : s.expandKey.arg = s.arg := by simp only [State.expandKey]
@[simp] theorem State.expandKey_busy (s : State) : s.expandKey.busy = s.busy := by simp only [State.expandKey]
@[simp] theorem State.expandKey_done (s : State) : s.expandKey.done = s.done := by simp only [State.expandKey]
@[simp] theorem State.expandKey_fault (s : State) : s.expandKey.fault = s.fault := by simp only [State.expandKey]
@[simp] theorem State.expandKey_nv (s : State) : s.expandKey.nv = s.nv := by simp only [State.expandKey]
@[simp] theorem State.expandKey_ksz (s : State) :
    s.expandKey.ksz = kszOf (s.keyLen / 4) :=
  by simp only [State.expandKey]
@[simp] theorem State.expandKey_err (s : State) : s.expandKey.err = s.err := by simp only [State.expandKey]
@[simp] theorem State.expandKey_errop (s : State) : s.expandKey.errop = s.errop := by simp only [State.expandKey]
@[simp] theorem State.expandKey_errarg (s : State) : s.expandKey.errarg = s.errarg := by simp only [State.expandKey]
@[simp] theorem State.expandKey_din (s : State) : s.expandKey.din = s.din := by simp only [State.expandKey]
@[simp] theorem State.expandKey_dout (s : State) : s.expandKey.dout = s.dout := by simp only [State.expandKey]
@[simp] theorem State.expandKey_held (s : State) : s.expandKey.held = s.held := by simp only [State.expandKey]
@[simp] theorem State.expandKey_env (s : State) : s.expandKey.env = s.env := by simp only [State.expandKey]

/-! ### `State.formPwBlock` -/

@[simp] theorem State.formPwBlock_keybits (s : State) :
    s.formPwBlock.keybits = s.keybits :=
  by simp only [State.formPwBlock]
@[simp] theorem State.formPwBlock_pwlen (s : State) : s.formPwBlock.pwlen = s.pwlen := by simp only [State.formPwBlock]
@[simp] theorem State.formPwBlock_pw (s : State) : s.formPwBlock.pw = s.pw := by simp only [State.formPwBlock]
@[simp] theorem State.formPwBlock_key (s : State) :
    s.formPwBlock.key = Vector.ofFn fun i => if i.val < s.keyLen ∧ i.val < s.pwlen.toNat then s.pw.get i else 0 :=
  by simp only [State.formPwBlock]
@[simp] theorem State.formPwBlock_w (s : State) : s.formPwBlock.w = s.w := by simp only [State.formPwBlock]
@[simp] theorem State.formPwBlock_mat (s : State) : s.formPwBlock.mat = s.mat := by simp only [State.formPwBlock]
@[simp] theorem State.formPwBlock_blkin (s : State) : s.formPwBlock.blkin = s.blkin := by simp only [State.formPwBlock]
@[simp] theorem State.formPwBlock_blkout (s : State) :
    s.formPwBlock.blkout = s.blkout :=
  by simp only [State.formPwBlock]
@[simp] theorem State.formPwBlock_nonce (s : State) : s.formPwBlock.nonce = s.nonce := by simp only [State.formPwBlock]
@[simp] theorem State.formPwBlock_ctr (s : State) : s.formPwBlock.ctr = s.ctr := by simp only [State.formPwBlock]
@[simp] theorem State.formPwBlock_inlen (s : State) : s.formPwBlock.inlen = s.inlen := by simp only [State.formPwBlock]
@[simp] theorem State.formPwBlock_outlen (s : State) :
    s.formPwBlock.outlen = s.outlen :=
  by simp only [State.formPwBlock]
@[simp] theorem State.formPwBlock_arg (s : State) : s.formPwBlock.arg = s.arg := by simp only [State.formPwBlock]
@[simp] theorem State.formPwBlock_busy (s : State) : s.formPwBlock.busy = s.busy := by simp only [State.formPwBlock]
@[simp] theorem State.formPwBlock_done (s : State) : s.formPwBlock.done = s.done := by simp only [State.formPwBlock]
@[simp] theorem State.formPwBlock_fault (s : State) : s.formPwBlock.fault = s.fault := by simp only [State.formPwBlock]
@[simp] theorem State.formPwBlock_nv (s : State) : s.formPwBlock.nv = s.nv := by simp only [State.formPwBlock]
@[simp] theorem State.formPwBlock_ksz (s : State) : s.formPwBlock.ksz = s.ksz := by simp only [State.formPwBlock]
@[simp] theorem State.formPwBlock_err (s : State) : s.formPwBlock.err = s.err := by simp only [State.formPwBlock]
@[simp] theorem State.formPwBlock_errop (s : State) : s.formPwBlock.errop = s.errop := by simp only [State.formPwBlock]
@[simp] theorem State.formPwBlock_errarg (s : State) :
    s.formPwBlock.errarg = s.errarg :=
  by simp only [State.formPwBlock]
@[simp] theorem State.formPwBlock_din (s : State) : s.formPwBlock.din = s.din := by simp only [State.formPwBlock]
@[simp] theorem State.formPwBlock_dout (s : State) : s.formPwBlock.dout = s.dout := by simp only [State.formPwBlock]
@[simp] theorem State.formPwBlock_held (s : State) : s.formPwBlock.held = s.held := by simp only [State.formPwBlock]
@[simp] theorem State.formPwBlock_env (s : State) : s.formPwBlock.env = s.env := by simp only [State.formPwBlock]

/-! ### `State.keyToBlkin` -/

@[simp] theorem State.keyToBlkin_keybits (s : State) :
    s.keyToBlkin.keybits = s.keybits :=
  by simp only [State.keyToBlkin]
@[simp] theorem State.keyToBlkin_pwlen (s : State) : s.keyToBlkin.pwlen = s.pwlen := by simp only [State.keyToBlkin]
@[simp] theorem State.keyToBlkin_pw (s : State) : s.keyToBlkin.pw = s.pw := by simp only [State.keyToBlkin]
@[simp] theorem State.keyToBlkin_key (s : State) : s.keyToBlkin.key = s.key := by simp only [State.keyToBlkin]
@[simp] theorem State.keyToBlkin_w (s : State) : s.keyToBlkin.w = s.w := by simp only [State.keyToBlkin]
@[simp] theorem State.keyToBlkin_mat (s : State) : s.keyToBlkin.mat = s.mat := by simp only [State.keyToBlkin]
@[simp] theorem State.keyToBlkin_blkin (s : State) :
    s.keyToBlkin.blkin = arrayOf 16 s.key.toList :=
  by simp only [State.keyToBlkin]
@[simp] theorem State.keyToBlkin_blkout (s : State) : s.keyToBlkin.blkout = s.blkout := by simp only [State.keyToBlkin]
@[simp] theorem State.keyToBlkin_nonce (s : State) : s.keyToBlkin.nonce = s.nonce := by simp only [State.keyToBlkin]
@[simp] theorem State.keyToBlkin_ctr (s : State) : s.keyToBlkin.ctr = s.ctr := by simp only [State.keyToBlkin]
@[simp] theorem State.keyToBlkin_inlen (s : State) : s.keyToBlkin.inlen = s.inlen := by simp only [State.keyToBlkin]
@[simp] theorem State.keyToBlkin_outlen (s : State) : s.keyToBlkin.outlen = s.outlen := by simp only [State.keyToBlkin]
@[simp] theorem State.keyToBlkin_arg (s : State) : s.keyToBlkin.arg = s.arg := by simp only [State.keyToBlkin]
@[simp] theorem State.keyToBlkin_busy (s : State) : s.keyToBlkin.busy = s.busy := by simp only [State.keyToBlkin]
@[simp] theorem State.keyToBlkin_done (s : State) : s.keyToBlkin.done = s.done := by simp only [State.keyToBlkin]
@[simp] theorem State.keyToBlkin_fault (s : State) : s.keyToBlkin.fault = s.fault := by simp only [State.keyToBlkin]
@[simp] theorem State.keyToBlkin_nv (s : State) : s.keyToBlkin.nv = s.nv := by simp only [State.keyToBlkin]
@[simp] theorem State.keyToBlkin_ksz (s : State) : s.keyToBlkin.ksz = s.ksz := by simp only [State.keyToBlkin]
@[simp] theorem State.keyToBlkin_err (s : State) : s.keyToBlkin.err = s.err := by simp only [State.keyToBlkin]
@[simp] theorem State.keyToBlkin_errop (s : State) : s.keyToBlkin.errop = s.errop := by simp only [State.keyToBlkin]
@[simp] theorem State.keyToBlkin_errarg (s : State) : s.keyToBlkin.errarg = s.errarg := by simp only [State.keyToBlkin]
@[simp] theorem State.keyToBlkin_din (s : State) : s.keyToBlkin.din = s.din := by simp only [State.keyToBlkin]
@[simp] theorem State.keyToBlkin_dout (s : State) : s.keyToBlkin.dout = s.dout := by simp only [State.keyToBlkin]
@[simp] theorem State.keyToBlkin_held (s : State) : s.keyToBlkin.held = s.held := by simp only [State.keyToBlkin]
@[simp] theorem State.keyToBlkin_env (s : State) : s.keyToBlkin.env = s.env := by simp only [State.keyToBlkin]

/-! ### `State.blkoutToKey` -/

@[simp] theorem State.blkoutToKey_keybits (s : State) :
    s.blkoutToKey.keybits = s.keybits :=
  by simp only [State.blkoutToKey]
@[simp] theorem State.blkoutToKey_pwlen (s : State) : s.blkoutToKey.pwlen = s.pwlen := by simp only [State.blkoutToKey]
@[simp] theorem State.blkoutToKey_pw (s : State) : s.blkoutToKey.pw = s.pw := by simp only [State.blkoutToKey]
@[simp] theorem State.blkoutToKey_key (s : State) :
    s.blkoutToKey.key = Vector.ofFn fun i => if i.val < s.keyLen then byteAt s.blkout (i.val % 16) else 0 :=
  by simp only [State.blkoutToKey]
@[simp] theorem State.blkoutToKey_w (s : State) : s.blkoutToKey.w = s.w := by simp only [State.blkoutToKey]
@[simp] theorem State.blkoutToKey_mat (s : State) : s.blkoutToKey.mat = s.mat := by simp only [State.blkoutToKey]
@[simp] theorem State.blkoutToKey_blkin (s : State) : s.blkoutToKey.blkin = s.blkin := by simp only [State.blkoutToKey]
@[simp] theorem State.blkoutToKey_blkout (s : State) :
    s.blkoutToKey.blkout = s.blkout :=
  by simp only [State.blkoutToKey]
@[simp] theorem State.blkoutToKey_nonce (s : State) : s.blkoutToKey.nonce = s.nonce := by simp only [State.blkoutToKey]
@[simp] theorem State.blkoutToKey_ctr (s : State) : s.blkoutToKey.ctr = s.ctr := by simp only [State.blkoutToKey]
@[simp] theorem State.blkoutToKey_inlen (s : State) : s.blkoutToKey.inlen = s.inlen := by simp only [State.blkoutToKey]
@[simp] theorem State.blkoutToKey_outlen (s : State) :
    s.blkoutToKey.outlen = s.outlen :=
  by simp only [State.blkoutToKey]
@[simp] theorem State.blkoutToKey_arg (s : State) : s.blkoutToKey.arg = s.arg := by simp only [State.blkoutToKey]
@[simp] theorem State.blkoutToKey_busy (s : State) : s.blkoutToKey.busy = s.busy := by simp only [State.blkoutToKey]
@[simp] theorem State.blkoutToKey_done (s : State) : s.blkoutToKey.done = s.done := by simp only [State.blkoutToKey]
@[simp] theorem State.blkoutToKey_fault (s : State) : s.blkoutToKey.fault = s.fault := by simp only [State.blkoutToKey]
@[simp] theorem State.blkoutToKey_nv (s : State) : s.blkoutToKey.nv = s.nv := by simp only [State.blkoutToKey]
@[simp] theorem State.blkoutToKey_ksz (s : State) : s.blkoutToKey.ksz = s.ksz := by simp only [State.blkoutToKey]
@[simp] theorem State.blkoutToKey_err (s : State) : s.blkoutToKey.err = s.err := by simp only [State.blkoutToKey]
@[simp] theorem State.blkoutToKey_errop (s : State) : s.blkoutToKey.errop = s.errop := by simp only [State.blkoutToKey]
@[simp] theorem State.blkoutToKey_errarg (s : State) :
    s.blkoutToKey.errarg = s.errarg :=
  by simp only [State.blkoutToKey]
@[simp] theorem State.blkoutToKey_din (s : State) : s.blkoutToKey.din = s.din := by simp only [State.blkoutToKey]
@[simp] theorem State.blkoutToKey_dout (s : State) : s.blkoutToKey.dout = s.dout := by simp only [State.blkoutToKey]
@[simp] theorem State.blkoutToKey_held (s : State) : s.blkoutToKey.held = s.held := by simp only [State.blkoutToKey]
@[simp] theorem State.blkoutToKey_env (s : State) : s.blkoutToKey.env = s.env := by simp only [State.blkoutToKey]

/-! ### `State.genNonce` -/

@[simp] theorem State.genNonce_keybits (s : State) :
    s.genNonce.keybits = s.keybits :=
  by simp only [State.genNonce, State.countSample]
@[simp] theorem State.genNonce_pwlen (s : State) :
    s.genNonce.pwlen = s.pwlen :=
  by simp only [State.genNonce, State.countSample]
@[simp] theorem State.genNonce_pw (s : State) : s.genNonce.pw = s.pw := by simp only [State.genNonce, State.countSample]
@[simp] theorem State.genNonce_key (s : State) :
    s.genNonce.key = s.key :=
  by simp only [State.genNonce, State.countSample]
@[simp] theorem State.genNonce_w (s : State) : s.genNonce.w = s.w := by simp only [State.genNonce, State.countSample]
@[simp] theorem State.genNonce_mat (s : State) :
    s.genNonce.mat = s.mat :=
  by simp only [State.genNonce, State.countSample]
@[simp] theorem State.genNonce_blkin (s : State) :
    s.genNonce.blkin = s.blkin :=
  by simp only [State.genNonce, State.countSample]
@[simp] theorem State.genNonce_blkout (s : State) :
    s.genNonce.blkout = s.blkout :=
  by simp only [State.genNonce, State.countSample]
@[simp] theorem State.genNonce_nonce (s : State) :
    s.genNonce.nonce = nonceOf s.clockPins.sec s.clockPins.ms :=
  by simp only [State.genNonce, State.countSample]
@[simp] theorem State.genNonce_ctr (s : State) : s.genNonce.ctr = 0 := by simp only [State.genNonce, State.countSample]
@[simp] theorem State.genNonce_inlen (s : State) :
    s.genNonce.inlen = s.inlen :=
  by simp only [State.genNonce, State.countSample]
@[simp] theorem State.genNonce_outlen (s : State) :
    s.genNonce.outlen = s.outlen :=
  by simp only [State.genNonce, State.countSample]
@[simp] theorem State.genNonce_arg (s : State) :
    s.genNonce.arg = s.arg :=
  by simp only [State.genNonce, State.countSample]
@[simp] theorem State.genNonce_busy (s : State) :
    s.genNonce.busy = s.busy :=
  by simp only [State.genNonce, State.countSample]
@[simp] theorem State.genNonce_done (s : State) :
    s.genNonce.done = s.done :=
  by simp only [State.genNonce, State.countSample]
@[simp] theorem State.genNonce_fault (s : State) :
    s.genNonce.fault = s.fault :=
  by simp only [State.genNonce, State.countSample]
@[simp] theorem State.genNonce_nv (s : State) : s.genNonce.nv = true := by simp only [State.genNonce, State.countSample]
@[simp] theorem State.genNonce_ksz (s : State) :
    s.genNonce.ksz = s.ksz :=
  by simp only [State.genNonce, State.countSample]
@[simp] theorem State.genNonce_err (s : State) :
    s.genNonce.err = s.err :=
  by simp only [State.genNonce, State.countSample]
@[simp] theorem State.genNonce_errop (s : State) :
    s.genNonce.errop = s.errop :=
  by simp only [State.genNonce, State.countSample]
@[simp] theorem State.genNonce_errarg (s : State) :
    s.genNonce.errarg = s.errarg :=
  by simp only [State.genNonce, State.countSample]
@[simp] theorem State.genNonce_din (s : State) :
    s.genNonce.din = s.din :=
  by simp only [State.genNonce, State.countSample]
@[simp] theorem State.genNonce_dout (s : State) :
    s.genNonce.dout = s.dout :=
  by simp only [State.genNonce, State.countSample]
@[simp] theorem State.genNonce_held (s : State) :
    s.genNonce.held = s.held :=
  by simp only [State.genNonce, State.countSample]
@[simp] theorem State.genNonce_env (s : State) :
    s.genNonce.env = { s.env with draws := s.env.draws + 1 } :=
  by simp only [State.genNonce, State.countSample]

/-! ### `State.loadNonce` -/

@[simp] theorem State.loadNonce_keybits (x : List Byte) (s : State) :
    (s.loadNonce x).keybits = s.keybits :=
  by simp only [State.loadNonce]
@[simp] theorem State.loadNonce_pwlen (x : List Byte) (s : State) :
    (s.loadNonce x).pwlen = s.pwlen :=
  by simp only [State.loadNonce]
@[simp] theorem State.loadNonce_pw (x : List Byte) (s : State) :
    (s.loadNonce x).pw = s.pw :=
  by simp only [State.loadNonce]
@[simp] theorem State.loadNonce_key (x : List Byte) (s : State) :
    (s.loadNonce x).key = s.key :=
  by simp only [State.loadNonce]
@[simp] theorem State.loadNonce_w (x : List Byte) (s : State) :
    (s.loadNonce x).w = s.w :=
  by simp only [State.loadNonce]
@[simp] theorem State.loadNonce_mat (x : List Byte) (s : State) :
    (s.loadNonce x).mat = s.mat :=
  by simp only [State.loadNonce]
@[simp] theorem State.loadNonce_blkin (x : List Byte) (s : State) :
    (s.loadNonce x).blkin = s.blkin :=
  by simp only [State.loadNonce]
@[simp] theorem State.loadNonce_blkout (x : List Byte) (s : State) :
    (s.loadNonce x).blkout = s.blkout :=
  by simp only [State.loadNonce]
@[simp] theorem State.loadNonce_nonce (x : List Byte) (s : State) :
    (s.loadNonce x).nonce = arrayOf 8 x :=
  by simp only [State.loadNonce]
@[simp] theorem State.loadNonce_ctr (x : List Byte) (s : State) :
    (s.loadNonce x).ctr = 0 :=
  by simp only [State.loadNonce]
@[simp] theorem State.loadNonce_inlen (x : List Byte) (s : State) :
    (s.loadNonce x).inlen = s.inlen :=
  by simp only [State.loadNonce]
@[simp] theorem State.loadNonce_outlen (x : List Byte) (s : State) :
    (s.loadNonce x).outlen = s.outlen :=
  by simp only [State.loadNonce]
@[simp] theorem State.loadNonce_arg (x : List Byte) (s : State) :
    (s.loadNonce x).arg = s.arg :=
  by simp only [State.loadNonce]
@[simp] theorem State.loadNonce_busy (x : List Byte) (s : State) :
    (s.loadNonce x).busy = s.busy :=
  by simp only [State.loadNonce]
@[simp] theorem State.loadNonce_done (x : List Byte) (s : State) :
    (s.loadNonce x).done = s.done :=
  by simp only [State.loadNonce]
@[simp] theorem State.loadNonce_fault (x : List Byte) (s : State) :
    (s.loadNonce x).fault = s.fault :=
  by simp only [State.loadNonce]
@[simp] theorem State.loadNonce_nv (x : List Byte) (s : State) :
    (s.loadNonce x).nv = true :=
  by simp only [State.loadNonce]
@[simp] theorem State.loadNonce_ksz (x : List Byte) (s : State) :
    (s.loadNonce x).ksz = s.ksz :=
  by simp only [State.loadNonce]
@[simp] theorem State.loadNonce_err (x : List Byte) (s : State) :
    (s.loadNonce x).err = s.err :=
  by simp only [State.loadNonce]
@[simp] theorem State.loadNonce_errop (x : List Byte) (s : State) :
    (s.loadNonce x).errop = s.errop :=
  by simp only [State.loadNonce]
@[simp] theorem State.loadNonce_errarg (x : List Byte) (s : State) :
    (s.loadNonce x).errarg = s.errarg :=
  by simp only [State.loadNonce]
@[simp] theorem State.loadNonce_din (x : List Byte) (s : State) :
    (s.loadNonce x).din = s.din :=
  by simp only [State.loadNonce]
@[simp] theorem State.loadNonce_dout (x : List Byte) (s : State) :
    (s.loadNonce x).dout = s.dout :=
  by simp only [State.loadNonce]
@[simp] theorem State.loadNonce_held (x : List Byte) (s : State) :
    (s.loadNonce x).held = s.held :=
  by simp only [State.loadNonce]
@[simp] theorem State.loadNonce_env (x : List Byte) (s : State) :
    (s.loadNonce x).env = s.env :=
  by simp only [State.loadNonce]

/-! ### `State.buildCounter` -/

@[simp] theorem State.buildCounter_keybits (s : State) :
    s.buildCounter.keybits = s.keybits :=
  by simp only [State.buildCounter]
@[simp] theorem State.buildCounter_pwlen (s : State) :
    s.buildCounter.pwlen = s.pwlen :=
  by simp only [State.buildCounter]
@[simp] theorem State.buildCounter_pw (s : State) : s.buildCounter.pw = s.pw := by simp only [State.buildCounter]
@[simp] theorem State.buildCounter_key (s : State) : s.buildCounter.key = s.key := by simp only [State.buildCounter]
@[simp] theorem State.buildCounter_w (s : State) : s.buildCounter.w = s.w := by simp only [State.buildCounter]
@[simp] theorem State.buildCounter_mat (s : State) : s.buildCounter.mat = s.mat := by simp only [State.buildCounter]
@[simp] theorem State.buildCounter_blkin (s : State) :
    s.buildCounter.blkin = counterBlock s.nonce s.ctr :=
  by simp only [State.buildCounter]
@[simp] theorem State.buildCounter_blkout (s : State) :
    s.buildCounter.blkout = s.blkout :=
  by simp only [State.buildCounter]
@[simp] theorem State.buildCounter_nonce (s : State) :
    s.buildCounter.nonce = s.nonce :=
  by simp only [State.buildCounter]
@[simp] theorem State.buildCounter_ctr (s : State) : s.buildCounter.ctr = s.ctr := by simp only [State.buildCounter]
@[simp] theorem State.buildCounter_inlen (s : State) :
    s.buildCounter.inlen = s.inlen :=
  by simp only [State.buildCounter]
@[simp] theorem State.buildCounter_outlen (s : State) :
    s.buildCounter.outlen = s.outlen :=
  by simp only [State.buildCounter]
@[simp] theorem State.buildCounter_arg (s : State) : s.buildCounter.arg = s.arg := by simp only [State.buildCounter]
@[simp] theorem State.buildCounter_busy (s : State) : s.buildCounter.busy = s.busy := by simp only [State.buildCounter]
@[simp] theorem State.buildCounter_done (s : State) : s.buildCounter.done = s.done := by simp only [State.buildCounter]
@[simp] theorem State.buildCounter_fault (s : State) :
    s.buildCounter.fault = s.fault :=
  by simp only [State.buildCounter]
@[simp] theorem State.buildCounter_nv (s : State) : s.buildCounter.nv = s.nv := by simp only [State.buildCounter]
@[simp] theorem State.buildCounter_ksz (s : State) : s.buildCounter.ksz = s.ksz := by simp only [State.buildCounter]
@[simp] theorem State.buildCounter_err (s : State) : s.buildCounter.err = s.err := by simp only [State.buildCounter]
@[simp] theorem State.buildCounter_errop (s : State) :
    s.buildCounter.errop = s.errop :=
  by simp only [State.buildCounter]
@[simp] theorem State.buildCounter_errarg (s : State) :
    s.buildCounter.errarg = s.errarg :=
  by simp only [State.buildCounter]
@[simp] theorem State.buildCounter_din (s : State) : s.buildCounter.din = s.din := by simp only [State.buildCounter]
@[simp] theorem State.buildCounter_dout (s : State) : s.buildCounter.dout = s.dout := by simp only [State.buildCounter]
@[simp] theorem State.buildCounter_held (s : State) : s.buildCounter.held = s.held := by simp only [State.buildCounter]
@[simp] theorem State.buildCounter_env (s : State) : s.buildCounter.env = s.env := by simp only [State.buildCounter]

/-! ### `State.nextCounter` -/

@[simp] theorem State.nextCounter_keybits (s : State) : s.nextCounter.keybits = s.keybits := rfl
@[simp] theorem State.nextCounter_pwlen (s : State) : s.nextCounter.pwlen = s.pwlen := rfl
@[simp] theorem State.nextCounter_pw (s : State) : s.nextCounter.pw = s.pw := rfl
@[simp] theorem State.nextCounter_key (s : State) : s.nextCounter.key = s.key := rfl
@[simp] theorem State.nextCounter_w (s : State) : s.nextCounter.w = s.w := rfl
@[simp] theorem State.nextCounter_mat (s : State) : s.nextCounter.mat = s.mat := rfl
@[simp] theorem State.nextCounter_blkin (s : State) : s.nextCounter.blkin = s.blkin := rfl
@[simp] theorem State.nextCounter_blkout (s : State) : s.nextCounter.blkout = s.blkout := rfl
@[simp] theorem State.nextCounter_nonce (s : State) : s.nextCounter.nonce = s.nonce := rfl
@[simp] theorem State.nextCounter_ctr (s : State) : s.nextCounter.ctr = s.ctr + 1 := rfl
@[simp] theorem State.nextCounter_inlen (s : State) : s.nextCounter.inlen = s.inlen := rfl
@[simp] theorem State.nextCounter_outlen (s : State) : s.nextCounter.outlen = s.outlen := rfl
@[simp] theorem State.nextCounter_arg (s : State) : s.nextCounter.arg = s.arg := rfl
@[simp] theorem State.nextCounter_busy (s : State) : s.nextCounter.busy = s.busy := rfl
@[simp] theorem State.nextCounter_done (s : State) : s.nextCounter.done = s.done := rfl
@[simp] theorem State.nextCounter_fault (s : State) : s.nextCounter.fault = s.fault := rfl
@[simp] theorem State.nextCounter_nv (s : State) : s.nextCounter.nv = s.nv := rfl
@[simp] theorem State.nextCounter_ksz (s : State) : s.nextCounter.ksz = s.ksz := rfl
@[simp] theorem State.nextCounter_err (s : State) : s.nextCounter.err = s.err := rfl
@[simp] theorem State.nextCounter_errop (s : State) : s.nextCounter.errop = s.errop := rfl
@[simp] theorem State.nextCounter_errarg (s : State) : s.nextCounter.errarg = s.errarg := rfl
@[simp] theorem State.nextCounter_din (s : State) : s.nextCounter.din = s.din := rfl
@[simp] theorem State.nextCounter_dout (s : State) : s.nextCounter.dout = s.dout := rfl
@[simp] theorem State.nextCounter_held (s : State) : s.nextCounter.held = s.held := rfl
@[simp] theorem State.nextCounter_env (s : State) : s.nextCounter.env = s.env := rfl

/-! ### `State.reply` -/

@[simp] theorem State.reply_keybits (b : Byte) (s : State) : (s.reply b).keybits = s.keybits := rfl
@[simp] theorem State.reply_pwlen (b : Byte) (s : State) : (s.reply b).pwlen = s.pwlen := rfl
@[simp] theorem State.reply_pw (b : Byte) (s : State) : (s.reply b).pw = s.pw := rfl
@[simp] theorem State.reply_key (b : Byte) (s : State) : (s.reply b).key = s.key := rfl
@[simp] theorem State.reply_w (b : Byte) (s : State) : (s.reply b).w = s.w := rfl
@[simp] theorem State.reply_mat (b : Byte) (s : State) : (s.reply b).mat = s.mat := rfl
@[simp] theorem State.reply_blkin (b : Byte) (s : State) : (s.reply b).blkin = s.blkin := rfl
@[simp] theorem State.reply_blkout (b : Byte) (s : State) : (s.reply b).blkout = s.blkout := rfl
@[simp] theorem State.reply_nonce (b : Byte) (s : State) : (s.reply b).nonce = s.nonce := rfl
@[simp] theorem State.reply_ctr (b : Byte) (s : State) : (s.reply b).ctr = s.ctr := rfl
@[simp] theorem State.reply_inlen (b : Byte) (s : State) : (s.reply b).inlen = s.inlen := rfl
@[simp] theorem State.reply_outlen (b : Byte) (s : State) : (s.reply b).outlen = s.outlen := rfl
@[simp] theorem State.reply_arg (b : Byte) (s : State) : (s.reply b).arg = s.arg := rfl
@[simp] theorem State.reply_busy (b : Byte) (s : State) : (s.reply b).busy = s.busy := rfl
@[simp] theorem State.reply_done (b : Byte) (s : State) : (s.reply b).done = s.done := rfl
@[simp] theorem State.reply_fault (b : Byte) (s : State) : (s.reply b).fault = s.fault := rfl
@[simp] theorem State.reply_nv (b : Byte) (s : State) : (s.reply b).nv = s.nv := rfl
@[simp] theorem State.reply_ksz (b : Byte) (s : State) : (s.reply b).ksz = s.ksz := rfl
@[simp] theorem State.reply_err (b : Byte) (s : State) : (s.reply b).err = s.err := rfl
@[simp] theorem State.reply_errop (b : Byte) (s : State) : (s.reply b).errop = s.errop := rfl
@[simp] theorem State.reply_errarg (b : Byte) (s : State) : (s.reply b).errarg = s.errarg := rfl
@[simp] theorem State.reply_din (b : Byte) (s : State) : (s.reply b).din = s.din := rfl
@[simp] theorem State.reply_dout (b : Byte) (s : State) : (s.reply b).dout = s.dout := rfl
@[simp] theorem State.reply_held (b : Byte) (s : State) : (s.reply b).held = s.held := rfl
@[simp] theorem State.reply_env (b : Byte) (s : State) :
    (s.reply b).env = { s.env with replies := s.env.replies ++ [b] } :=
  rfl

/-! ### `State.setClock` -/

@[simp] theorem State.setClock_keybits (sec : BitVec 64) (ms : BitVec 10) (s : State) :
    (s.setClock sec ms).keybits = s.keybits :=
  rfl
@[simp] theorem State.setClock_pwlen (sec : BitVec 64) (ms : BitVec 10) (s : State) :
    (s.setClock sec ms).pwlen = s.pwlen :=
  rfl
@[simp] theorem State.setClock_pw (sec : BitVec 64) (ms : BitVec 10) (s : State) : (s.setClock sec ms).pw = s.pw := rfl
@[simp] theorem State.setClock_key (sec : BitVec 64) (ms : BitVec 10) (s : State) :
    (s.setClock sec ms).key = s.key :=
  rfl
@[simp] theorem State.setClock_w (sec : BitVec 64) (ms : BitVec 10) (s : State) : (s.setClock sec ms).w = s.w := rfl
@[simp] theorem State.setClock_mat (sec : BitVec 64) (ms : BitVec 10) (s : State) :
    (s.setClock sec ms).mat = s.mat :=
  rfl
@[simp] theorem State.setClock_blkin (sec : BitVec 64) (ms : BitVec 10) (s : State) :
    (s.setClock sec ms).blkin = s.blkin :=
  rfl
@[simp] theorem State.setClock_blkout (sec : BitVec 64) (ms : BitVec 10) (s : State) :
    (s.setClock sec ms).blkout = s.blkout :=
  rfl
@[simp] theorem State.setClock_nonce (sec : BitVec 64) (ms : BitVec 10) (s : State) :
    (s.setClock sec ms).nonce = s.nonce :=
  rfl
@[simp] theorem State.setClock_ctr (sec : BitVec 64) (ms : BitVec 10) (s : State) :
    (s.setClock sec ms).ctr = s.ctr :=
  rfl
@[simp] theorem State.setClock_inlen (sec : BitVec 64) (ms : BitVec 10) (s : State) :
    (s.setClock sec ms).inlen = s.inlen :=
  rfl
@[simp] theorem State.setClock_outlen (sec : BitVec 64) (ms : BitVec 10) (s : State) :
    (s.setClock sec ms).outlen = s.outlen :=
  rfl
@[simp] theorem State.setClock_arg (sec : BitVec 64) (ms : BitVec 10) (s : State) :
    (s.setClock sec ms).arg = s.arg :=
  rfl
@[simp] theorem State.setClock_busy (sec : BitVec 64) (ms : BitVec 10) (s : State) :
    (s.setClock sec ms).busy = s.busy :=
  rfl
@[simp] theorem State.setClock_done (sec : BitVec 64) (ms : BitVec 10) (s : State) :
    (s.setClock sec ms).done = s.done :=
  rfl
@[simp] theorem State.setClock_fault (sec : BitVec 64) (ms : BitVec 10) (s : State) :
    (s.setClock sec ms).fault = s.fault :=
  rfl
@[simp] theorem State.setClock_nv (sec : BitVec 64) (ms : BitVec 10) (s : State) : (s.setClock sec ms).nv = s.nv := rfl
@[simp] theorem State.setClock_ksz (sec : BitVec 64) (ms : BitVec 10) (s : State) :
    (s.setClock sec ms).ksz = s.ksz :=
  rfl
@[simp] theorem State.setClock_err (sec : BitVec 64) (ms : BitVec 10) (s : State) :
    (s.setClock sec ms).err = s.err :=
  rfl
@[simp] theorem State.setClock_errop (sec : BitVec 64) (ms : BitVec 10) (s : State) :
    (s.setClock sec ms).errop = s.errop :=
  rfl
@[simp] theorem State.setClock_errarg (sec : BitVec 64) (ms : BitVec 10) (s : State) :
    (s.setClock sec ms).errarg = s.errarg :=
  rfl
@[simp] theorem State.setClock_din (sec : BitVec 64) (ms : BitVec 10) (s : State) :
    (s.setClock sec ms).din = s.din :=
  rfl
@[simp] theorem State.setClock_dout (sec : BitVec 64) (ms : BitVec 10) (s : State) :
    (s.setClock sec ms).dout = s.dout :=
  rfl
@[simp] theorem State.setClock_held (sec : BitVec 64) (ms : BitVec 10) (s : State) :
    (s.setClock sec ms).held = s.held :=
  rfl
@[simp] theorem State.setClock_env (sec : BitVec 64) (ms : BitVec 10) (s : State) :
    (s.setClock sec ms).env = { s.env with clock := some { sec := sec, ms := ms } } :=
  rfl

/-! ### `State.withScript` -/

@[simp] theorem State.withScript_keybits (script : List Event) (s : State) :
    (s.withScript script).keybits = s.keybits :=
  rfl
@[simp] theorem State.withScript_pwlen (script : List Event) (s : State) : (s.withScript script).pwlen = s.pwlen := rfl
@[simp] theorem State.withScript_pw (script : List Event) (s : State) : (s.withScript script).pw = s.pw := rfl
@[simp] theorem State.withScript_key (script : List Event) (s : State) : (s.withScript script).key = s.key := rfl
@[simp] theorem State.withScript_w (script : List Event) (s : State) : (s.withScript script).w = s.w := rfl
@[simp] theorem State.withScript_mat (script : List Event) (s : State) : (s.withScript script).mat = s.mat := rfl
@[simp] theorem State.withScript_blkin (script : List Event) (s : State) : (s.withScript script).blkin = s.blkin := rfl
@[simp] theorem State.withScript_blkout (script : List Event) (s : State) :
    (s.withScript script).blkout = s.blkout :=
  rfl
@[simp] theorem State.withScript_nonce (script : List Event) (s : State) : (s.withScript script).nonce = s.nonce := rfl
@[simp] theorem State.withScript_ctr (script : List Event) (s : State) : (s.withScript script).ctr = s.ctr := rfl
@[simp] theorem State.withScript_inlen (script : List Event) (s : State) : (s.withScript script).inlen = s.inlen := rfl
@[simp] theorem State.withScript_outlen (script : List Event) (s : State) :
    (s.withScript script).outlen = s.outlen :=
  rfl
@[simp] theorem State.withScript_arg (script : List Event) (s : State) : (s.withScript script).arg = s.arg := rfl
@[simp] theorem State.withScript_busy (script : List Event) (s : State) : (s.withScript script).busy = s.busy := rfl
@[simp] theorem State.withScript_done (script : List Event) (s : State) : (s.withScript script).done = s.done := rfl
@[simp] theorem State.withScript_fault (script : List Event) (s : State) : (s.withScript script).fault = s.fault := rfl
@[simp] theorem State.withScript_nv (script : List Event) (s : State) : (s.withScript script).nv = s.nv := rfl
@[simp] theorem State.withScript_ksz (script : List Event) (s : State) : (s.withScript script).ksz = s.ksz := rfl
@[simp] theorem State.withScript_err (script : List Event) (s : State) : (s.withScript script).err = s.err := rfl
@[simp] theorem State.withScript_errop (script : List Event) (s : State) : (s.withScript script).errop = s.errop := rfl
@[simp] theorem State.withScript_errarg (script : List Event) (s : State) :
    (s.withScript script).errarg = s.errarg :=
  rfl
@[simp] theorem State.withScript_din (script : List Event) (s : State) : (s.withScript script).din = s.din := rfl
@[simp] theorem State.withScript_dout (script : List Event) (s : State) : (s.withScript script).dout = s.dout := rfl
@[simp] theorem State.withScript_held (script : List Event) (s : State) : (s.withScript script).held = s.held := rfl
@[simp] theorem State.withScript_env (script : List Event) (s : State) :
    (s.withScript script).env = { s.env with script := script } :=
  rfl

end Sys2Proof.Machine
end

