-- ==== Sys2Proof/Laws/Ops.lean ====
section
/-! SUPPORT. One lemma per shared operation that says everything it can do; later proofs cite these. -/

namespace Sys2Proof.Machine

theorem count64_of_lt {n : Nat} (h : n < 2 ^ 64) : count64 n = BitVec.ofNat 64 n := by
  simp only [count64, if_pos h]

@[simp] theorem count64_zero : count64 0 = 0 := count64_of_lt (by decide)

theorem raise_eq (e : ErrCode) (i : Instr) (s : State) : s.raise e i = .next (s.faultEntry e i.op i.operand) := rfl

theorem faultEntry_accept (e : ErrCode) (op arg : Byte) (s : State) :
    s.accept.faultEntry e op arg = s.faultEntry e op arg := rfl

theorem complete_accept (n : Nat) (s : State) : s.accept.complete n = s.complete n := rfl

theorem enterHold_accept (i : Instr) (s : State) : s.accept.enterHold i = s.enterHold i := rfl

theorem toReset_env (s : State) : s.toReset.env = s.env := rfl

theorem holdUntil_ready {n : Nat} {i : Instr} {body : State → Result} {s : State} (h : n ≤ s.din.length) :
    s.holdUntil n i body = body s := if_pos h

theorem holdUntil_waits {n : Nat} {i : Instr} {body : State → Result} {s : State} (h : s.din.length < n) :
    s.holdUntil n i body = .next (s.enterHold i) := if_neg (Nat.not_le.mpr h)

/-- A hold either runs the rest of the rule, the input being present, or changes BUSY, DONE and the command in hold. -/
theorem holdUntil_cases (n : Nat) (i : Instr) (body : State → Result) (s : State) :
    (n ≤ s.din.length ∧ s.holdUntil n i body = body s)
    ∨ (s.din.length < n ∧ s.holdUntil n i body = .next (s.enterHold i)) := by
  rcases Nat.lt_or_ge s.din.length n with h | h
  · exact .inr ⟨h, holdUntil_waits h⟩
  · exact .inl ⟨h, holdUntil_ready h⟩

theorem legalKeybits_cases {k : BitVec 16} (h : legalKeybits k = true) : k = 128 ∨ k = 192 ∨ k = 256 := by
  simpa [legalKeybits, or_assoc] using h

theorem keyBytes_cases {k : BitVec 16} (h : legalKeybits k = true) :
    keyBytes k = 16 ∨ keyBytes k = 24 ∨ keyBytes k = 32 := by
  rcases legalKeybits_cases h with rfl | rfl | rfl <;> decide

/-- A round of ENCB touches S only. -/
theorem roundS_eq (s : State) (round : Nat) :
    s.roundS round = { s with mat := cipherRound s.w.toList s.mat round } := rfl

theorem foldl_roundS_eq (rounds : List Nat) (s : State) :
    rounds.foldl State.roundS s = { s with mat := rounds.foldl (cipherRound s.w.toList) s.mat } := by
  induction rounds generalizing s with
  | nil => rfl
  | cons r rs ih => rw [List.foldl_cons, ih, roundS_eq]; rfl

/-- ENCB's effect: S becomes the final State of the block encryption of BLKIN under W with Nr rounds, BLKOUT its
serialization; nothing else changes. -/
theorem encipher_eq (s : State) :
    s.encipher =
      { s with
        mat := cipherMat s.ksz.nr s.w.toList s.blkin
        blkout := storeMat (cipherMat s.ksz.nr s.w.toList s.blkin) } := by
  simp only [State.encipher, foldl_roundS_eq, cipherMat, State.subS, State.shiftS, State.addKeyS, State.storeS,
    State.loadS]

/-- The block loop writes BLKIN, S, BLKOUT and CTR only. -/
theorem cipherBlocks_frame (n : Nat) (x : List Byte) (s : State) :
    ∃ bi m bo c, (State.cipherBlocks n x s).1 = { s with blkin := bi, mat := m, blkout := bo, ctr := c } := by
  induction n generalizing x s with
  | zero => exact ⟨s.blkin, s.mat, s.blkout, s.ctr, rfl⟩
  | succ n ih =>
    obtain ⟨bi, m, bo, c, h⟩ := ih (x.drop 16) s.buildCounter.encipher.nextCounter
    refine ⟨bi, m, bo, c, ?_⟩
    simp only [State.cipherBlocks]
    rw [h, encipher_eq]
    simp only [State.nextCounter, State.buildCounter]

/-- The block loop adds the number of blocks to CTR. -/
theorem cipherBlocks_ctr (n : Nat) (x : List Byte) (s : State) :
    (State.cipherBlocks n x s).1.ctr = s.ctr + BitVec.ofNat 64 n := by
  induction n generalizing x s with
  | zero => simp [State.cipherBlocks]
  | succ n ih =>
    simp only [State.cipherBlocks]
    rw [ih, encipher_eq]
    simp only [State.nextCounter_ctr, State.buildCounter_ctr]
    apply BitVec.eq_of_toNat_eq
    simp only [BitVec.toNat_add, BitVec.toNat_ofNat, show (1 : BitVec 64).toNat = 1 from rfl]
    omega

/-- DRVK's effect touches KEY, W, KSZ, BLKIN, S and BLKOUT only. -/
theorem deriveKey_frame (s : State) :
    ∃ k w z bi m bo,
      s.deriveKey = { s with key := k, w := w, ksz := z, blkin := bi, mat := m, blkout := bo } := by
  refine ⟨s.deriveKey.key, s.deriveKey.w, s.deriveKey.ksz, s.deriveKey.blkin, s.deriveKey.mat, s.deriveKey.blkout, ?_⟩
  simp only [State.deriveKey, encipher_eq, State.formPwBlock, State.expandKey, State.keyToBlkin, State.blkoutToKey]

/-- Every command answers a next state. -/
theorem exec_next (i : Instr) (s : State) : ∃ t, exec i s = .next t := by
  have hold : ∀ n j body, (∀ u, ∃ t, body u = Host.Outcome.next t) → ∃ t, s.holdUntil n j body = .next t := by
    intro n j body hb
    rcases holdUntil_cases n j body s with ⟨-, h⟩ | ⟨-, h⟩
    · rw [h]; exact hb s
    · rw [h]; exact ⟨_, rfl⟩
  cases i <;> simp only [exec]
  case nop => exact ⟨_, rfl⟩
  case srst => exact ⟨_, rfl⟩
  case kexp => unfold execKexp; split <;> exact ⟨_, rfl⟩
  case ldst => exact ⟨_, rfl⟩
  case subb => exact ⟨_, rfl⟩
  case shrw => exact ⟨_, rfl⟩
  case mixc => exact ⟨_, rfl⟩
  case adrk => unfold execAdrk; split <;> [split; skip] <;> exact ⟨_, rfl⟩
  case stst => exact ⟨_, rfl⟩
  case encb => unfold execEncb; split <;> exact ⟨_, rfl⟩
  case pwbk => unfold execPwbk; split <;> exact ⟨_, rfl⟩
  case drvk => unfold execDrvk; split <;> exact ⟨_, rfl⟩
  case gnnc => exact ⟨_, rfl⟩
  case ldnc => exact hold _ _ _ fun u => ⟨_, rfl⟩
  case emnc => unfold execEmnc; split <;> exact ⟨_, rfl⟩
  case ctrb => unfold execCtrb; split <;> exact ⟨_, rfl⟩
  case xorb =>
    unfold execXorb; split
    · exact hold _ _ _ fun u => ⟨_, rfl⟩
    · exact ⟨_, rfl⟩
  case cblk =>
    unfold execCblk; split
    · split
      · exact ⟨_, rfl⟩
      · exact hold _ _ _ fun u => ⟨_, rfl⟩
    · exact ⟨_, rfl⟩
  case encr =>
    unfold execEncr; split
    · exact hold _ _ _ fun u => ⟨_, rfl⟩
    · exact ⟨_, rfl⟩
  case decr =>
    unfold execDecr; split
    · refine hold _ _ _ fun u => ?_
      unfold State.decryptMessage
      split
      · exact ⟨_, rfl⟩
      · split <;> exact ⟨_, rfl⟩
    · exact ⟨_, rfl⟩
  case b64e =>
    unfold execB64e; split
    · exact hold _ _ _ fun u => ⟨_, rfl⟩
    · exact ⟨_, rfl⟩
  case b64d =>
    unfold execB64d; split
    · refine hold _ _ _ fun u => ?_
      split <;> exact ⟨_, rfl⟩
    · exact ⟨_, rfl⟩
  case b64em => exact hold _ _ _ fun u => ⟨_, rfl⟩
  case b64dm =>
    refine hold _ _ _ fun u => ?_
    split <;> exact ⟨_, rfl⟩

end Sys2Proof.Machine
end

