-- ==== Sys2Proof/Laws/PerInstr.lean ====
section
/-! SUPPORT. One lemma per command: the word of a well-formed command is legal by R94. -/

namespace Sys2Proof.Laws.EncodeLegal

open Sys2Proof

/-- A well-formed command's word is none of the illegal words of 30_encoding.md R94. -/
def Statement (i : Instr) : Prop := i.wf = true → legalWord i.op i.operand = true

theorem nop : Statement .nop := by unfold Statement; decide

theorem srst : Statement .srst := by unfold Statement; decide

theorem kexp : Statement .kexp := by unfold Statement; decide

theorem ldst : Statement .ldst := by unfold Statement; decide

theorem subb : Statement .subb := by unfold Statement; decide

theorem shrw : Statement .shrw := by unfold Statement; decide

theorem mixc : Statement .mixc := by unfold Statement; decide

theorem adrk (round : Byte) : Statement (.adrk round) := by
  intro h
  have h' := of_decide_eq_true h
  simp [legalWord, Instr.op, Instr.operand, formatZOps]
  exact decide_eq_true h'

theorem stst : Statement .stst := by unfold Statement; decide

theorem encb : Statement .encb := by unfold Statement; decide

theorem pwbk : Statement .pwbk := by unfold Statement; decide

theorem drvk : Statement .drvk := by unfold Statement; decide

theorem gnnc : Statement .gnnc := by unfold Statement; decide

theorem ldnc : Statement .ldnc := by unfold Statement; decide

theorem emnc : Statement .emnc := by unfold Statement; decide

theorem ctrb : Statement .ctrb := by unfold Statement; decide

theorem xorb (k : Byte) : Statement (.xorb k) := by
  intro h
  have h' := of_decide_eq_true h
  simp [legalWord, Instr.op, Instr.operand, formatZOps]
  exact decide_eq_true h'

theorem cblk (k : Byte) : Statement (.cblk k) := by
  intro h
  have h' := of_decide_eq_true h
  simp [legalWord, Instr.op, Instr.operand, formatZOps]
  exact decide_eq_true h'

theorem encr : Statement .encr := by unfold Statement; decide

theorem decr : Statement .decr := by unfold Statement; decide

theorem b64e (k : Byte) : Statement (.b64e k) := by
  intro h
  have h' := of_decide_eq_true h
  simp [legalWord, Instr.op, Instr.operand, formatZOps]
  exact decide_eq_true h'

theorem b64d (f : Byte) : Statement (.b64d f) := by
  intro h
  have h' := of_decide_eq_true h
  simp [legalWord, Instr.op, Instr.operand, formatZOps]
  exact decide_eq_true h'

theorem b64em : Statement .b64em := by unfold Statement; decide

theorem b64dm : Statement .b64dm := by unfold Statement; decide

end Sys2Proof.Laws.EncodeLegal
end

