-- ==== Sys2Proof/Tests/Slice0.lean ====
section
/-! SUPPORT. Tests: well-formedness, the decoding of every command's word as 30_encoding.md R93 writes it, and one step
of each command on the values of 95_test_vectors.md and of the rules' worked examples. -/

namespace Sys2Proof.Tests

-- One theorem after the other: each of these is a kernel evaluation.
set_option Elab.async false

open Sys2Proof Sys2Proof.Machine

/-- The state in an answer; the reset state where there is none. -/
def after : Result → State
  | .next t => t
  | .fault _ => State.reset
  | .refused _ => State.reset

/-- One step that issues the command word `op`, `arg`. -/
def issued (op arg : Byte) (s : State) : State := after (step (s.withIssue op arg))

/-- The bytes 00 01 … 0F, "seq" of 95_test_vectors.md. -/
def seq : List Byte := [0x00, 0x01, 0x02, 0x03, 0x04, 0x05, 0x06, 0x07, 0x08, 0x09, 0x0A, 0x0B, 0x0C, 0x0D, 0x0E, 0x0F]

/-- The ASCII bytes of "password". -/
def password : List Byte := [0x70, 0x61, 0x73, 0x73, 0x77, 0x6F, 0x72, 0x64]

/-- The nonce of the clock reading 1700000000 s, 123 ms. -/
def nonceA : List Byte := [0x65, 0x53, 0xF1, 0x00, 0x00, 0x00, 0x00, 0x7B]

/-- The text "ZVPxAAAAAHv3". -/
def envelopeA : List Byte := [0x5A, 0x56, 0x50, 0x78, 0x41, 0x41, 0x41, 0x41, 0x41, 0x48, 0x76, 0x33]

/-- Reset, but with the State S given in serialized form. -/
def withS (x : List Byte) : State := { State.reset with mat := loadMat (arrayOf 16 x) }

/-- Reset, but with the schedule of a 128-bit key in W. -/
def withKey128 (key : List Byte) : State :=
  { State.reset with w := Vector.ofFn fun i => (expand key).getD i.val zeroWord, ksz := .nk4 }

/-- Reset, but with the password "password", a key size and the clock at 1700000000 s, 123 ms. -/
def withPassword (keybits : BitVec 16) : State :=
  { State.reset with
    keybits := keybits, pw := arrayOf 32 password, pwlen := 8
    env := { State.reset.env with clock := some { sec := 1700000000, ms := 123 } } }

/-! ## Well-formedness: one ill-formed term per check -/

theorem test_adrk_15_is_ill_formed : (Instr.adrk 15).wf = false := by decide
theorem test_xorb_0_and_17_are_ill_formed : (Instr.xorb 0).wf = false ∧ (Instr.xorb 17).wf = false := by decide
theorem test_cblk_0_and_17_are_ill_formed : (Instr.cblk 0).wf = false ∧ (Instr.cblk 17).wf = false := by decide
theorem test_b64e_0_and_4_are_ill_formed : (Instr.b64e 0).wf = false ∧ (Instr.b64e 4).wf = false := by decide
theorem test_b64d_2_is_ill_formed : (Instr.b64d 2).wf = false := by decide
theorem test_range_ends_are_well_formed :
    (Instr.adrk 14).wf = true ∧ (Instr.xorb 1).wf = true ∧ (Instr.xorb 16).wf = true ∧ (Instr.cblk 16).wf = true
      ∧ (Instr.b64e 3).wf = true ∧ (Instr.b64d 0).wf = true ∧ (Instr.b64d 1).wf = true := by decide

/-! ## Decoding: words written out bit by bit, OP in bits 15:8, ARG in bits 7:0 (R90, R93) -/

theorem test_decode_nop : decodeWord 0b00000000_00000000 = .ok .nop := by decide
theorem test_decode_srst : decodeWord 0b00000001_01011010 = .ok .srst := by decide
theorem test_decode_kexp : decodeWord 0b00010000_00000000 = .ok .kexp := by decide
theorem test_decode_ldst : decodeWord 0b00100000_00000000 = .ok .ldst := by decide
theorem test_decode_subb : decodeWord 0b00100001_00000000 = .ok .subb := by decide
theorem test_decode_shrw : decodeWord 0b00100010_00000000 = .ok .shrw := by decide
theorem test_decode_mixc : decodeWord 0b00100011_00000000 = .ok .mixc := by decide
theorem test_decode_adrk : decodeWord 0b00100100_00001110 = .ok (.adrk 14) := by decide
theorem test_decode_stst : decodeWord 0b00100101_00000000 = .ok .stst := by decide
theorem test_decode_encb : decodeWord 0b00101000_00000000 = .ok .encb := by decide
theorem test_decode_pwbk : decodeWord 0b00110000_00000000 = .ok .pwbk := by decide
theorem test_decode_drvk : decodeWord 0b00110001_00000000 = .ok .drvk := by decide
theorem test_decode_gnnc : decodeWord 0b00110010_00000000 = .ok .gnnc := by decide
theorem test_decode_ldnc : decodeWord 0b00110011_00000000 = .ok .ldnc := by decide
theorem test_decode_emnc : decodeWord 0b00110100_00000000 = .ok .emnc := by decide
theorem test_decode_ctrb : decodeWord 0b00110101_00000000 = .ok .ctrb := by decide
theorem test_decode_xorb : decodeWord 0b00110110_00000001 = .ok (.xorb 1) := by decide
theorem test_decode_cblk : decodeWord 0b00110111_00010000 = .ok (.cblk 16) := by decide
theorem test_decode_encr : decodeWord 0b00111000_00000000 = .ok .encr := by decide
theorem test_decode_decr : decodeWord 0b00111001_00000000 = .ok .decr := by decide
theorem test_decode_b64e : decodeWord 0b01000000_00000011 = .ok (.b64e 3) := by decide
theorem test_decode_b64d : decodeWord 0b01000001_00000001 = .ok (.b64d 1) := by decide
theorem test_decode_b64em : decodeWord 0b01000010_00000000 = .ok .b64em := by decide
theorem test_decode_b64dm : decodeWord 0b01000011_00000000 = .ok .b64dm := by decide
theorem test_decode_rejects_reserved_op : decodeWord 0x1100 = .error (.reservedOp 0x11) := by decide
theorem test_decode_rejects_z_with_arg : decodeWord 0x390C = .error (.argNotZero 0x39 0x0C) := by decide

/-! ## One step of each command -/

/-- R221: after `ENCR` left OUTLEN = 12, `NOP` leaves OUTLEN = 0, DONE = 1. -/
theorem test_nop :
    (issued 0x00 0 { State.reset with outlen := 12 }).outlen = 0
      ∧ (issued 0x00 0 { State.reset with outlen := 12 }).status = 0x02 := by decide +kernel

/-- R222: with ERR = 2, ERROP = 0x39, FAULT = 1 and ARG = 0x5A, SRST clears them all. -/
theorem test_srst :
    let t := issued 0x01 0x5A { State.reset with err := .malformedEnvelope, errop := 0x39, fault := true }
    t.err = .noFault ∧ t.errop = 0 ∧ t.errarg = 0 ∧ t.arg = 0 ∧ t.status = 0x00 := by decide +kernel

/-- R131: the all-zero 128-bit key gives W[4] = 62 63 63 63 and W[43] = 6F 8F 18 8E, KSZ = 1. -/
theorem test_kexp :
    let t := issued 0x10 0 { State.reset with keybits := 128 }
    t.w[4] = #v[0x62, 0x63, 0x63, 0x63] ∧ t.w[43] = #v[0x6F, 0x8F, 0x18, 0x8E] ∧ t.status = 0x12 := by decide +kernel

/-- R270: KEXP right after reset faults InvalidKeySize. -/
theorem test_kexp_after_reset :
    (issued 0x10 0 State.reset).err = .invalidKeySize ∧ (issued 0x10 0 State.reset).errop = 0x10 := by decide +kernel

/-- Section 2.3: after LDST of 00 01 … 0F the host reads S[1][2] at 0x0A9 as 0x09. -/
theorem test_ldst :
    (issued 0x20 0 { State.reset with blkin := arrayOf 16 seq }).readByte 0x0A9 = 0x09 := by decide +kernel

/-- Section 2.3, SUBB row 1. -/
theorem test_subb :
    (storeMat (issued 0x21 0 (withS seq)).mat).toList =
      [0x63, 0x7C, 0x77, 0x7B, 0xF2, 0x6B, 0x6F, 0xC5, 0x30, 0x01, 0x67, 0x2B, 0xFE, 0xD7, 0xAB, 0x76] := by
  decide +kernel

/-- Section 2.3, SHRW row 1. -/
theorem test_shrw :
    (storeMat (issued 0x22 0 (withS seq)).mat).toList =
      [0x00, 0x05, 0x0A, 0x0F, 0x04, 0x09, 0x0E, 0x03, 0x08, 0x0D, 0x02, 0x07, 0x0C, 0x01, 0x06, 0x0B] := by
  decide +kernel

/-- Section 2.3, MIXC row 3 (first two columns) and row 4 (last two): reduction exercised. -/
theorem test_mixc :
    (storeMat (issued 0x23 0 (withS
        [0xDB, 0x13, 0x53, 0x45, 0xF2, 0x0A, 0x22, 0x5C, 0x00, 0x00, 0x00, 0x80, 0x01, 0x02, 0x03, 0x04])).mat).toList =
      [0x8E, 0x4D, 0xA1, 0xBC, 0x9F, 0xDC, 0x58, 0x9D, 0x80, 0x80, 0x9B, 0x1B, 0x03, 0x04, 0x09, 0x0A] := by
  decide +kernel

/-- Section 2.3, ADRK 10 under the key 00 … 0F. -/
theorem test_adrk :
    (storeMat (issued 0x24 10 { withKey128 seq with
        mat := loadMat (arrayOf 16 [0x00, 0x11, 0x22, 0x33, 0x44, 0x55, 0x66, 0x77, 0x88, 0x99, 0xAA, 0xBB, 0xCC, 0xDD,
          0xEE, 0xFF]) }).mat).toList =
      [0x13, 0x00, 0x3F, 0x4C, 0xA7, 0xC1, 0x2C, 0x60, 0x7B, 0x9E, 0x0D, 0x30, 0x81, 0xF6, 0xDE, 0x3A] := by
  decide +kernel

/-- R247: ADRK 15 with KSZ = 0 faults IllegalCommand, ADRK 12 with KSZ = 1 faults SequenceError. -/
theorem test_adrk_faults :
    (issued 0x24 15 State.reset).err = .illegalCommand
      ∧ (issued 0x24 12 { State.reset with ksz := .nk4 }).err = .sequenceError := by decide +kernel

/-- R146: with S = 00 01 … 0F, STST gives BLKOUT = 00 01 … 0F. -/
theorem test_stst : (issued 0x25 0 (withS seq)).blkout.toList = seq := by decide +kernel

/-- Section 2.1, the vector of FIPS-197 Appendix C.1. -/
theorem test_encb :
    (issued 0x28 0 { withKey128 seq with
        blkin := #v[0x00, 0x11, 0x22, 0x33, 0x44, 0x55, 0x66, 0x77, 0x88, 0x99, 0xAA, 0xBB, 0xCC, 0xDD, 0xEE,
          0xFF] }).blkout.toList =
      [0x69, 0xC4, 0xE0, 0xD8, 0x6A, 0x7B, 0x04, 0x30, 0xD8, 0xCD, 0xB7, 0x80, 0x70, 0xB4, 0xC5, 0x5A] := by
  decide +kernel

/-- R161: "password" under 128 bits, padded with zeros; KEY[16..31] is zeroed. -/
theorem test_pwbk :
    (issued 0x30 0 { withPassword 128 with key := Vector.replicate 32 0xFF }).key.toList =
      password ++ List.replicate 24 0 := by decide +kernel

/-- R162: "password" under 192 bits: c, then its first eight bytes. -/
theorem test_drvk :
    (issued 0x31 0 (withPassword 192)).key.toList =
      [0xC5, 0x85, 0xA9, 0xCB, 0x6A, 0x1A, 0xB2, 0xB2, 0xE6, 0xFF, 0x38, 0xB4, 0xF4, 0x43, 0xD8, 0xF1, 0xC5, 0x85, 0xA9,
        0xCB, 0x6A, 0x1A, 0xB2, 0xB2, 0, 0, 0, 0, 0, 0, 0, 0] := by decide +kernel

/-- R163: the clock at 1700000000 s, 123 ms, and the clock at 2^32 + 5 s, 999 ms. -/
theorem test_gnnc : (issued 0x32 0 (withPassword 0)).nonce.toList = nonceA := by decide +kernel
theorem test_gnnc_seconds_wrap :
    (issued 0x32 0 (State.reset.setClock (2 ^ 32 + 5) 999)).nonce.toList = [0, 0, 0, 5, 0, 0, 3, 0xE7] := by
  decide +kernel

/-- R164: nine bytes in DIN leave F7 there. -/
theorem test_ldnc :
    (issued 0x33 0 { State.reset with din := nonceA ++ [0xF7] }).nonce.toList = nonceA
      ∧ (issued 0x33 0 { State.reset with din := nonceA ++ [0xF7] }).din = [0xF7] := by decide +kernel

/-- R165: the nonce is pushed; without one the fault is SequenceError. -/
theorem test_emnc :
    (issued 0x34 0 { State.reset with nonce := arrayOf 8 nonceA, nv := true }).dout = nonceA
      ∧ (issued 0x34 0 State.reset).err = .sequenceError := by decide +kernel

/-- R166: CTR = 0x123456789A. -/
theorem test_ctrb :
    (issued 0x35 0 { State.reset with nonce := arrayOf 8 nonceA, nv := true, ctr := 0x123456789A }).blkin.toList =
      nonceA ++ [0x00, 0x00, 0x00, 0x12, 0x34, 0x56, 0x78, 0x9A] := by decide +kernel

/-- R167: 41 with keystream byte B6 gives F7, and CTR wraps from 2^64 - 1 to 0. -/
theorem test_xorb :
    let t := issued 0x36 1 { State.reset with blkout := Vector.replicate 16 0xB6, din := [0x41], ctr := 2 ^ 64 - 1 }
    t.dout = [0xF7] ∧ t.ctr = 0 ∧ t.outlen = 1 := by decide +kernel

/-- R247: `XORB 17` with empty DIN faults at once and does not hold; `XORB 1` holds. -/
theorem test_xorb_hold :
    (issued 0x36 17 State.reset).err = .illegalCommand ∧ (issued 0x36 1 State.reset).held = some (.xorb 1)
      ∧ (issued 0x36 1 State.reset).status = 0x01 := by decide +kernel

/-- R168: under the key derived from "password", block 0 of "0123456789abcdef". -/
theorem test_cblk :
    let key : List Byte :=
      [0xDB, 0xD7, 0xBB, 0x45, 0xC7, 0xB0, 0xEA, 0x45, 0xEA, 0xBC, 0xA4, 0x53, 0x60, 0xD4, 0x59, 0xC4]
    let t := issued 0x37 16 { withKey128 key with
      nonce := arrayOf 8 nonceA, nv := true
      din := [0x30, 0x31, 0x32, 0x33, 0x34, 0x35, 0x36, 0x37, 0x38, 0x39, 0x61, 0x62, 0x63, 0x64, 0x65, 0x66] }
    t.dout = [0x86, 0x53, 0x42, 0x8C, 0xBC, 0x38, 0x2C, 0x95, 0xD6, 0xBA, 0x69, 0x60, 0xB1, 0xD9, 0x17, 0xD5]
      ∧ t.ctr = 1 := by decide +kernel

/-- R169: 'A' encrypted under "password", 128 bits. -/
theorem test_encr :
    let t := issued 0x38 0 { withPassword 128 with inlen := 1, din := [0x41] }
    t.dout = envelopeA ∧ t.outlen = 12 ∧ t.ctr = 1 := by decide +kernel

/-- R170: and decrypted again. -/
theorem test_decr :
    let t := issued 0x39 0 { withPassword 128 with inlen := 12, din := envelopeA }
    t.dout = [0x41] ∧ t.outlen = 1 ∧ t.nonce.toList = nonceA ∧ t.ctr = 1 := by decide +kernel

/-- R244: the empty text is malformed for DECR. -/
theorem test_decr_empty : (issued 0x39 0 (withPassword 128)).err = .malformedEnvelope := by decide +kernel

/-- R201: 65 53 F1 encodes as "ZVPx". -/
theorem test_b64e :
    (issued 0x40 3 { State.reset with din := [0x65, 0x53, 0xF1] }).dout = [0x5A, 0x56, 0x50, 0x78] := by decide +kernel

/-- R202: "AHs=" decodes to 00 7B in a final quantum and is refused in another, staying in DIN. -/
theorem test_b64d :
    (issued 0x41 1 { State.reset with din := [0x41, 0x48, 0x73, 0x3D] }).dout = [0x00, 0x7B]
      ∧ (issued 0x41 0 { State.reset with din := [0x41, 0x48, 0x73, 0x3D] }).err = .malformedEnvelope
      ∧ (issued 0x41 0 { State.reset with din := [0x41, 0x48, 0x73, 0x3D] }).din = [0x41, 0x48, 0x73, 0x3D] := by
  decide +kernel

/-- R203: nine bytes, no padding. -/
theorem test_b64em :
    (issued 0x42 0 { State.reset with inlen := 9, din := nonceA ++ [0xF7] }).dout = envelopeA := by decide +kernel

/-- R204: "ZVPxAAAAAHs=" decodes to the eight nonce bytes. -/
theorem test_b64dm :
    let t := issued 0x43 0
      { State.reset with
        inlen := 12, din := [0x5A, 0x56, 0x50, 0x78, 0x41, 0x41, 0x41, 0x41, 0x41, 0x48, 0x73, 0x3D] }
    t.dout = nonceA ∧ t.outlen = 8 := by decide +kernel

/-- R228: v = 40 stores 32, v = 72 stores 8. -/
theorem test_pwlen_clamps : clampPwlen 40 = 32 ∧ clampPwlen 72 = 8 ∧ clampPwlen 255 = 32 := by decide

/-- R65: INLEN is big-endian at 0x010..0x017. -/
theorem test_inlen_byte_order :
    (after (State.reset.hostWrite 0x017 5)).inlen = 5 ∧ (after (State.reset.hostWrite 0x010 1)).inlen = 2 ^ 56 := by
  decide +kernel

end Sys2Proof.Tests
end

