-- ==== Sys2Proof/Tests/Witnesses.lean ====
section
/-! SUPPORT. For every obligation that has hypotheses, a concrete state and operands that meet them together, one for each
clause and at the ends of the clause's range. `witness_<Name>` belongs to `Obligations.<Name>`. -/

namespace Sys2Proof.Tests

-- One theorem after the other: each of these is a kernel evaluation.
set_option Elab.async false

open Sys2Proof Sys2Proof.Machine

/-- Reset, with the events still to come. -/
def scripted (script : List Event) : State := State.reset.withScript script

/-- A state in the fault state, as KEXP after reset leaves it. -/
def faulted : State := State.reset.faultEntry .invalidKeySize 0x10 0

/-- A state whose command LDNC is in hold with seven bytes present. -/
def holding : State := { State.reset with busy := true, held := some .ldnc, din := List.replicate 7 0x11 }

/-- A state with a nonce and (so its flag says) a schedule, and `n` bytes in DIN. -/
def ready (n : Nat) : State := { State.reset with nv := true, ksz := .nk4, din := List.replicate n 0x41 }

/-- A state with a legal key size and INLEN = 1, with `n` bytes in DIN. -/
def oneByte (n : Nat) : State := { State.reset with keybits := 128, inlen := 1, din := List.replicate n 0x41 }

/-- A state with a legal key size and the twelve-character text `x` as input. -/
def withText (x : List Byte) : State := { State.reset with keybits := 128, inlen := 12, din := x }

theorem witness_DecodeInvertsEncode :
    (Instr.adrk 0).wf = true ∧ (Instr.adrk 14).wf = true ∧ (Instr.xorb 16).wf = true ∧ (Instr.b64d 1).wf = true
      ∧ Instr.srst.wf = true ∧ decodeWord 0x2480 = .ok (.adrk 0x80) ∧ decodeWord 0x01FF = .ok .srst := by decide

theorem witness_LegalWordsDecodeToWellFormedCommands :
    legalWord 0x24 14 = true ∧ decode 0x24 14 = .ok (.adrk 14) ∧ legalWord 0x24 15 = false ∧ legalWord 0x02 0 = false
      ∧ legalWord 0x00 1 = false := by decide

theorem witness_IllegalWordTakesIllegalCommand :
    State.reset.fault = false ∧ legalWord 0x02 State.reset.arg = false ∧ legalWord 0xFF State.reset.arg = false
      ∧ legalWord 0x36 State.reset.arg = false ∧ legalWord 0x10 ({ State.reset with arg := 1 } : State).arg = false
      ∧ legalWord 0x41 ({ State.reset with arg := 2 } : State).arg = false := by decide +kernel

theorem witness_StepRunsDecodedCommand :
    ∃ s : State, s.env.script = .write 0x000 0x24 :: [.read 0x002] ∧ s.busy = false ∧ s.fault = false
      ∧ decode 0x24 s.arg = .ok (.adrk 14) :=
  ⟨{ scripted [.write 0x000 0x24, .read 0x002] with arg := 14 }, rfl, rfl, rfl, by decide +kernel⟩

theorem witness_StepServesReadsAndClock :
    (scripted []).env.script = []
      ∧ ((scripted [.write 0x001 7]).env.script = .write 0x001 7 :: [] ∧ (scripted [.write 0x001 7]).busy = false)
      ∧ ((holding.withScript [.write 0x009 7]).env.script = .write 0x009 7 :: []
        ∧ (holding.withScript [.write 0x009 7]).busy = true)
      ∧ ((scripted [.read 0x00A]).env.script = .read 0x00A :: [] ∧ (scripted [.read 0x00A]).busy = false)
      ∧ ((holding.withScript [.read 0x03F]).env.script = .read 0x03F :: []
        ∧ (holding.withScript [.read 0x03F]).busy = true
        ∧ (∀ a ∈ ([0x002, 0x00A, 0x030, 0x03F] : List (BitVec 12)), Event.allowedInHold (.read a) = true))
      ∧ (scripted [.clock 5 999]).env.script = .clock 5 999 :: []
      ∧ (0x009 : BitVec 12) ≠ 0x00A ∧ (0x00B : BitVec 12) ≠ 0x00A :=
  ⟨rfl, ⟨rfl, rfl⟩, ⟨rfl, rfl⟩, ⟨rfl, rfl⟩, ⟨rfl, rfl, by decide⟩, rfl, by decide, by decide⟩

theorem witness_HostReadsFollowTheMap :
    (holding.din.length < 2 ^ 64 ∧ 0 < holding.din.length) ∧ State.reset.dout.length < 2 ^ 64 := by decide +kernel

theorem witness_ReservedReadZeroReadOnlyIgnoreWrites :
    (∀ a ∈ [0x00B, 0x00F, 0x0B0, 0x0BF, 0x0EC, 0x0FF, 0x2F0, 0xFFF], reservedAddress a = true)
      ∧ (∀ a ∈ [0x002, 0x005, 0x00A, 0x018, 0x01F, 0x028, 0x03F, 0x090, 0x0AF, 0x0C0, 0x0EB, 0x100, 0x2EF],
          readOnlyAddress a = true) := by decide

theorem witness_HostWriteStoresExactlyOneByte :
    ∀ a ∈ [0x001, 0x006, 0x007, 0x010, 0x017, 0x020, 0x027, 0x040, 0x05F, 0x060, 0x07F, 0x080, 0x08F],
      plainAddress a = true := by decide

theorem witness_DinPushAppends : State.reset.held = none ∧ State.reset.din.length + 1 < 2 ^ 64 := by decide +kernel

theorem witness_DoutPopTakesTheOldestByte :
    (∃ s : State, s.dout = 0x41 :: [0x42] ∧ s.dout.length < 2 ^ 64) ∧ State.reset.dout = [] :=
  ⟨⟨{ State.reset with dout := [0x41, 0x42] }, rfl, by decide⟩, rfl⟩

theorem witness_PushEndsHold :
    (holding.held = some .ldnc ∧ holding.busy = true ∧ holding.done = false ∧ faultAtIssue .ldnc holding = none
      ∧ inputNeeded holding .ldnc ≤ holding.din.length + 1)
    ∧ ∃ s : State, s.held = some .ldnc ∧ s.busy = true ∧ s.done = false ∧ faultAtIssue .ldnc s = none
      ∧ s.din.length + 1 < inputNeeded s .ldnc :=
  ⟨by decide +kernel, { holding with din := List.replicate 6 0x11 }, by decide +kernel⟩

theorem witness_RefusesExactlyOutsideTheHoldContract :
    (∃ s : State, s.env.script = .read 0x001 :: [] ∧ s.busy = true ∧ Event.allowedInHold (.read 0x001) = false)
    ∧ (∃ s : State, s.env.script = .write 0x009 7 :: [] ∧ s.busy = true ∧ Event.allowedInHold (.write 0x009 7) = true)
    ∧ State.reset.busy = false :=
  ⟨⟨holding.withScript [.read 0x001], rfl, rfl, by decide⟩,
    ⟨holding.withScript [.write 0x009 7], rfl, rfl, by decide⟩, rfl⟩

theorem witness_ResetAndSrstGiveTheResetState :
    (holding.withScript [.reset, .read 0x002]).env.script = .reset :: [.read 0x002] := rfl

theorem witness_NopWritesDoneAndOutlen :
    (({ State.reset with arg := 1 } : State).fault = false ∧ ({ State.reset with arg := 1 } : State).arg ≠ 0)
      ∧ faulted.fault = true := by decide +kernel

theorem witness_ExpandSatisfiesTheRecurrence :
    (List.replicate 16 (0 : Byte)).length = 4 * 4 ∧ (List.replicate 24 (0 : Byte)).length = 4 * 6
      ∧ (List.replicate 32 (0 : Byte)).length = 4 * 8 := by decide

theorem witness_KexpExpandsTheKey :
    legalKeybits 128 = true ∧ legalKeybits 192 = true ∧ legalKeybits 256 = true
      ∧ ((0 : BitVec 16) ≠ 128 ∧ (0 : BitVec 16) ≠ 192 ∧ (0 : BitVec 16) ≠ 256)
      ∧ ((257 : BitVec 16) ≠ 128 ∧ (257 : BitVec 16) ≠ 192 ∧ (257 : BitVec 16) ≠ 256) := by decide

theorem witness_AdrkAddsTheRoundKey :
    14 < (15 : Byte).toNat ∧ 14 < (255 : Byte).toNat
      ∧ ((14 : Byte).toNat ≤ 14 ∧ State.reset.ksz = .empty)
      ∧ ((11 : Byte).toNat ≤ 14 ∧ (ready 0).ksz.nr < (11 : Byte).toNat)
      ∧ ((ready 0).ksz ≠ .empty ∧ (10 : Byte).toNat ≤ (ready 0).ksz.nr)
      ∧ (({ State.reset with ksz := .nk8 } : State).ksz ≠ .empty
        ∧ (14 : Byte).toNat ≤ ({ State.reset with ksz := .nk8 } : State).ksz.nr) := by decide +kernel

theorem witness_EncbEncryptsTheBlock : (ready 0).ksz ≠ .empty ∧ State.reset.ksz = .empty := by decide +kernel

theorem witness_HostRoundSequenceEqualsEncb :
    (ready 0).ksz ≠ .empty ∧ ({ State.reset with ksz := .nk8 } : State).ksz ≠ .empty := by decide +kernel

theorem witness_PwbkFormsThePasswordBlock :
    legalKeybits (withPassword 256).keybits = true ∧ legalKeybits State.reset.keybits = false := by decide +kernel

theorem witness_DrvkDerivesAndExpandsTheKey :
    legalKeybits (withPassword 192).keybits = true ∧ legalKeybits (withPassword 129).keybits = false := by decide +kernel

theorem witness_LdncLoadsTheNonceFromDin :
    8 ≤ (ready 8).din.length ∧ (ready 7).din.length < 8 ∧ State.reset.din.length < 8 := by decide +kernel

theorem witness_EmncPushesTheNonce : (ready 0).nv = true ∧ State.reset.nv = false := by decide +kernel

theorem witness_CtrbBuildsTheCounterBlock : (ready 0).nv = true ∧ State.reset.nv = false := by decide +kernel

theorem witness_XorbXorsOneBlock :
    (0 : Byte).toNat < 1 ∧ 16 < (17 : Byte).toNat ∧ (1 ≤ (1 : Byte).toNat ∧ (1 : Byte).toNat ≤ 16)
      ∧ (1 ≤ (16 : Byte).toNat ∧ (16 : Byte).toNat ≤ 16)
      ∧ State.reset.din.length < (1 : Byte).toNat ∧ (ready 15).din.length < (16 : Byte).toNat
      ∧ (1 : Byte).toNat ≤ (ready 1).din.length ∧ (16 : Byte).toNat ≤ (ready 16).din.length := by decide +kernel

theorem witness_CblkProcessesOneBlock :
    (0 : Byte).toNat < 1 ∧ 16 < (17 : Byte).toNat
      ∧ (1 ≤ (16 : Byte).toNat ∧ (16 : Byte).toNat ≤ 16 ∧ State.reset.nv = false)
      ∧ (({ State.reset with nv := true } : State).nv = true ∧ ({ State.reset with nv := true } : State).ksz = .empty)
      ∧ ((ready 15).nv = true ∧ (ready 15).ksz ≠ .empty ∧ (ready 15).din.length < (16 : Byte).toNat)
      ∧ ((ready 16).nv = true ∧ (ready 16).ksz ≠ .empty ∧ (16 : Byte).toNat ≤ (ready 16).din.length)
      ∧ ((ready 1).nv = true ∧ (1 : Byte).toNat ≤ (ready 1).din.length) := by decide +kernel

theorem witness_EncrPushesTheEncryptedEnvelope :
    legalKeybits State.reset.keybits = false
      ∧ (legalKeybits (oneByte 0).keybits = true ∧ (oneByte 0).din.length < (oneByte 0).inlen.toNat)
      ∧ (legalKeybits (oneByte 1).keybits = true ∧ (oneByte 1).inlen.toNat ≤ (oneByte 1).din.length)
      ∧ (legalKeybits (withPassword 128).keybits = true ∧ (withPassword 128).inlen.toNat = 0
        ∧ (withPassword 128).inlen.toNat ≤ (withPassword 128).din.length) := by decide +kernel

theorem witness_DecrPushesTheDecryptedText :
    legalKeybits State.reset.keybits = false
      ∧ (legalKeybits (withText []).keybits = true ∧ (withText []).din.length < (withText []).inlen.toNat)
      ∧ (legalKeybits (oneByte 1).keybits = true ∧ (oneByte 1).inlen.toNat ≤ (oneByte 1).din.length
        ∧ decrypt ((oneByte 1).din.take (oneByte 1).inlen.toNat) [] (oneByte 1).keybits = none)
      ∧ (legalKeybits (withText envelopeA).keybits = true
        ∧ (withText envelopeA).inlen.toNat ≤ (withText envelopeA).din.length
        ∧ (decrypt ((withText envelopeA).din.take (withText envelopeA).inlen.toNat) []
            (withText envelopeA).keybits).isSome = true) := by decide +kernel

theorem witness_DecryptInvertsEncrypt : legalKeybits 128 = true ∧ legalKeybits 192 = true ∧ legalKeybits 256 = true := by
  decide

theorem witness_CiphertextByteFlipsOnlyItsPlaintextByte :
    nonceA.length = 8 ∧ decrypt (b64Enc (nonceA ++ [0xF7])) password 128 = some [0x41] := by decide +kernel

theorem witness_CallResultDependsOnlyOnItsInputs :
    ∃ s s' : State, s ≠ s' ∧ s.keybits = s'.keybits ∧ s.pwlen = s'.pwlen
      ∧ s.pw.toList.take s.pwlen.toNat = s'.pw.toList.take s'.pwlen.toNat ∧ s.inlen = s'.inlen
      ∧ s.inlen.toNat ≤ s.din.length ∧ s'.inlen.toNat ≤ s'.din.length
      ∧ s.din.take s.inlen.toNat = s'.din.take s'.inlen.toNat ∧ s.clockPins = s'.clockPins :=
  ⟨withText envelopeA, { withText (envelopeA ++ [0x41]) with ctr := 9, dout := [1] }, by decide +kernel, rfl, rfl, rfl,
    rfl, by decide +kernel, by decide +kernel, by decide +kernel, rfl⟩

theorem witness_AlphabetAndItsInverse :
    (0 : Byte).toNat ≤ 25 ∧ (25 : Byte).toNat ≤ 25 ∧ 26 ≤ (26 : Byte).toNat ∧ (51 : Byte).toNat ≤ 51
      ∧ 52 ≤ (52 : Byte).toNat ∧ (61 : Byte).toNat ≤ 61 ∧ b64Val 0x2F = some 63 ∧ b64Val 0x3D = none := by decide

theorem witness_DecQAcceptsExactlyEncQ :
    decQ 0x5A 0x67 0x3D 0x3D true = some [0x66] ∧ decQ 0x5A 0x67 0x3D 0x3D false = none
      ∧ decQ 0x5A 0x68 0x3D 0x3D true = none ∧ decQ 0x5A 0x6D 0x39 0x76 false = some [0x66, 0x6F, 0x6F]
      ∧ decQ 0x5A 0x6D 0x38 0x3D true = some [0x66, 0x6F] := by decide

theorem witness_DecodeIsTheInverseOfEncode :
    b64Dec [] = some [] ∧ b64Dec [0x5A, 0x6D, 0x39, 0x76, 0x5A, 0x67, 0x3D, 0x3D] = some [0x66, 0x6F, 0x6F, 0x66] := by
  decide

theorem witness_B64eEncodesOneQuantum :
    (0 : Byte).toNat < 1 ∧ 3 < (4 : Byte).toNat ∧ (1 ≤ (1 : Byte).toNat ∧ State.reset.din.length < (1 : Byte).toNat)
      ∧ ((3 : Byte).toNat ≤ 3 ∧ (ready 2).din.length < (3 : Byte).toNat)
      ∧ ((3 : Byte).toNat ≤ 3 ∧ (3 : Byte).toNat ≤ (ready 3).din.length)
      ∧ (1 : Byte).toNat ≤ (ready 1).din.length := by decide +kernel

theorem witness_B64dDecodesOneQuantum :
    1 < (2 : Byte).toNat ∧ ((1 : Byte).toNat ≤ 1 ∧ (ready 3).din.length < 4)
      ∧ ((0 : Byte).toNat ≤ 1 ∧ (ready 4).din = 0x41 :: 0x41 :: 0x41 :: 0x41 :: []
        ∧ decQ 0x41 0x41 0x41 0x41 ((0 : Byte) == 1) = some [0, 0, 0])
      ∧ ({ State.reset with din := [0x3D, 0x41, 0x41, 0x41, 0x41] } : State).din =
          0x3D :: 0x41 :: 0x41 :: 0x41 :: [0x41]
      ∧ decQ 0x3D 0x41 0x41 0x41 ((1 : Byte) == 1) = none := by decide +kernel

theorem witness_B64emEncodesTheMessage :
    (oneByte 0).din.length < (oneByte 0).inlen.toNat ∧ (oneByte 1).inlen.toNat ≤ (oneByte 1).din.length
      ∧ 4 * (((oneByte 1).inlen.toNat + 2) / 3) < 2 ^ 64 ∧ State.reset.inlen.toNat ≤ State.reset.din.length := by
  decide +kernel

theorem witness_B64dmDecodesTheMessage :
    (oneByte 0).din.length < (oneByte 0).inlen.toNat
      ∧ ((oneByte 1).inlen.toNat ≤ (oneByte 1).din.length
        ∧ b64Dec ((oneByte 1).din.take (oneByte 1).inlen.toNat) = none)
      ∧ ((withText envelopeA).inlen.toNat ≤ (withText envelopeA).din.length
        ∧ b64Dec ((withText envelopeA).din.take (withText envelopeA).inlen.toNat) = some (nonceA ++ [0xF7]))
      ∧ b64Dec (State.reset.din.take State.reset.inlen.toNat) = some [] := by decide +kernel

theorem witness_FaultsArePrecise :
    State.reset.fault = false ∧ ∃ t, exec .encr State.reset = .next t ∧ t.fault = true := ⟨rfl, _, rfl, rfl⟩

theorem witness_CommandOutcomeFollowsThePriorityOrder :
    (faulted.fault = true ∧ (0x00 : Byte) ≠ 0x01)
      ∧ (State.reset.fault = false ∧ legalWord 0x02 State.reset.arg = false)
      ∧ faultAtIssue (.adrk 15) State.reset = some .illegalCommand
      ∧ faultAtIssue .decr State.reset = some .invalidKeySize
      ∧ faultAtIssue .encb State.reset = some .sequenceError
      ∧ (faultAtIssue (.xorb 1) State.reset = none ∧ State.reset.din.length < inputNeeded State.reset (.xorb 1))
      ∧ (faultAtIssue .decr (withPassword 128) = none
        ∧ inputNeeded (withPassword 128) .decr ≤ (withPassword 128).din.length
        ∧ inputMalformed (withPassword 128) .decr = true)
      ∧ (faultAtIssue .ldnc (ready 8) = none ∧ inputNeeded (ready 8) .ldnc ≤ (ready 8).din.length
        ∧ inputMalformed (ready 8) .ldnc = false ∧ Instr.ldnc ≠ .srst) := by decide +kernel

theorem witness_FaultStateDropsCommands :
    faulted.fault = true ∧ faulted.held = none ∧ (0x38 : Byte) ≠ 0x01 ∧ (0x001 : BitVec 12) ≠ 0x000
      ∧ (∃ t, ({ faulted with fault := false } : State).hostWrite 0x001 7 = .next t) ∧ (0x00A : BitVec 12) ≠ 0x002 :=
  ⟨rfl, rfl, by decide, by decide, ⟨_, rfl⟩, by decide⟩

theorem witness_FaultStateIsLeftOnlyByReset :
    (faulted.withScript [.write 0x000 0x01]).StatusInv ∧ (faulted.withScript [.write 0x000 0x01]).fault = true
      ∧ ∃ t, step (faulted.withScript [.write 0x000 0x01]) = .next t ∧ t.fault = false :=
  ⟨by unfold State.StatusInv; decide +kernel, rfl, _, rfl, rfl⟩

theorem witness_OutlenCountsThePushedBytes :
    ∃ t, exec .emnc (ready 0) = .next t ∧ t.done = true ∧ t.dout.length = 8 := ⟨_, rfl, rfl, by decide +kernel⟩

theorem witness_CommandsDoNotWriteTheHostsInputs :
    Instr.nop ≠ .srst ∧ ∃ t, exec .nop (oneByte 1) = .next t := ⟨by decide, _, rfl⟩

theorem witness_ScheduleIsWrittenByKexpOnly :
    (Instr.pwbk ≠ .kexp ∧ Instr.pwbk ≠ .drvk ∧ Instr.pwbk ≠ .encr ∧ Instr.pwbk ≠ .decr ∧ Instr.pwbk ≠ .srst
      ∧ ∃ t, exec .pwbk (withPassword 128) = .next t)
    ∧ (0x060 : BitVec 12) ≠ 0x000 ∧ State.reset.held = none ∧ ∃ t, State.reset.hostWrite 0x060 1 = .next t :=
  ⟨⟨by decide, by decide, by decide, by decide, by decide, _, rfl⟩, by decide, rfl, _, rfl⟩

theorem witness_ClockIsSampledOncePerNonce :
    (∃ t, exec .gnnc State.reset = .next t ∧ t.done = true)
      ∧ ∃ t, exec .encr (oneByte 0) = .next t ∧ t.done = false :=
  ⟨⟨_, rfl, rfl⟩, _, rfl, rfl⟩

theorem witness_EveryStepKeepsStatusInv :
    (holding.withScript [.write 0x009 5]).StatusInv ∧ ∃ t, step (holding.withScript [.write 0x009 5]) = .next t :=
  ⟨by unfold State.StatusInv; decide +kernel, _, rfl⟩

theorem witness_EveryStepKeepsHoldInv :
    ∃ s : State, s.StatusInv ∧ s.HoldInv ∧ s.held = some .ldnc ∧ ∃ t, step s = .next t := by
  refine ⟨holding.withScript [.write 0x009 5], by unfold State.StatusInv; decide +kernel, ?_, rfl, _, rfl⟩
  intro i h
  cases h
  decide +kernel

theorem witness_EveryStepKeepsScheduleInv :
    ∃ s : State, s.ScheduleInv ∧ s.ksz = .nk4 ∧ ∃ t, step s = .next t := by
  refine ⟨withKey128 seq, ?_, rfl, _, rfl⟩
  unfold State.ScheduleInv
  decide +kernel

end Sys2Proof.Tests
end

namespace Sys2Proof.Machine

/-! ### The key schedule is the expansion of its own first words (R24, R130) -/

theorem foldl_expandStep_prefix (nk : Nat) (is : List Nat) (w : Schedule) : w <+: is.foldl (expandStep nk) w := by
  induction is generalizing w with
  | nil => exact List.prefix_rfl
  | cons i is ih => exact (List.prefix_append w _).trans (ih (expandStep nk w i))

/-- The first Nk words of a schedule are the words of its key. -/
theorem take_expand (key : List Byte) :
    (expand key).take (key.length / 4) = (List.range (key.length / 4)).map (keyWord key) := by
  have h := foldl_expandStep_prefix (key.length / 4)
    (List.range' (key.length / 4) (scheduleLength (key.length / 4) - key.length / 4))
    ((List.range (key.length / 4)).map (keyWord key))
  simpa [expand] using (List.prefix_iff_eq_take.mp h).symm

theorem toList_keyWord (key : List Byte) (i : Nat) (h : 4 * i + 4 ≤ key.length) :
    (keyWord key i).toList = (key.drop (4 * i)).take 4 := by
  have h0 : 4 * i < key.length := by omega
  have h4 : ∀ j, j < 4 → 4 * i + j < key.length := by omega
  apply List.ext_getElem
  · simp; omega
  · intro j hj _
    have hj : j < 4 := by simpa using hj
    interval_cases j <;> simp [keyWord, h0, h4]

theorem flatMap_keyWord_range (key : List Byte) (n : Nat) (h : 4 * n ≤ key.length) :
    ((List.range n).map (keyWord key)).flatMap Vector.toList = key.take (4 * n) := by
  induction n with
  | zero => rfl
  | succ n ih =>
    rw [List.range_succ, List.map_append, List.flatMap_append, ih (by omega), Nat.mul_succ, List.take_add]
    simp [toList_keyWord key n (by omega)]

/-- The words of the key at the head of a schedule are, as bytes, the key. -/
theorem flatMap_take_expand (key : List Byte) (h : key.length % 4 = 0) :
    ((expand key).take (key.length / 4)).flatMap Vector.toList = key := by
  rw [take_expand, flatMap_keyWord_range key _ (by omega), List.take_of_length_le (by omega)]

/-- KSZ says a schedule is held, and W holds the expansion of its own key words (R24, R30). -/
def State.HoldsSchedule (s : State) : Prop := s.ksz ≠ .empty ∧ s.schedule = expand s.scheduleKey

theorem State.HoldsSchedule.congr {s t : State} (hs : s.HoldsSchedule) (hw : t.w = s.w) (hk : t.ksz = s.ksz) :
    t.HoldsSchedule := by
  simpa [HoldsSchedule, schedule, scheduleKey, hw, hk] using hs

/-- The number of key bytes fixes KSZ, and with it Nk and WLEN (R15, R131). -/
theorem kszOf_keyBytes {k : BitVec 16} (h : legalKeybits k = true) :
    kszOf (keyBytes k / 4) ≠ .empty ∧ (kszOf (keyBytes k / 4)).nk = keyBytes k / 4
      ∧ (kszOf (keyBytes k / 4)).wlen = 4 * (keyBytes k / 4 + 7) := by
  rcases keyBytes_cases h with h | h | h <;> rw [h] <;> decide

theorem toList_ofFn_getD_prefix {n : Nat} (ws : Schedule) (v : Vector Word n) (h : ws.length ≤ n) :
    ws <+: (Vector.ofFn fun i => ws.getD i.val (v.get i)).toList := by
  rw [List.prefix_iff_getElem]
  refine ⟨by simpa using h, fun i hi => ?_⟩
  simp [hi]

/-- KEXP with a legal key size leaves a schedule (R131). -/
theorem expandKey_holdsSchedule (s : State) (h : legalKeybits s.keybits = true) : s.expandKey.HoldsSchedule := by
  obtain ⟨hne, hnk, hwlen⟩ := kszOf_keyBytes h
  have hN : keyBytes s.keybits % 4 = 0 ∧ keyBytes s.keybits ≤ 32 := by
    rcases keyBytes_cases h with h | h | h <;> omega
  have hkey : (s.key.toList.take s.keyLen).length = keyBytes s.keybits := by
    simp [State.keyLen]; omega
  generalize hk : s.key.toList.take s.keyLen = key at hkey
  have hlen : (expand key).length = 4 * (keyBytes s.keybits / 4 + 7) := by
    rw [length_expand key (by omega), hkey]
  have htake : s.expandKey.w.toList.take (expand key).length = expand key := by
    rw [State.expandKey_w, hk]
    exact (List.prefix_iff_eq_take.mp (toList_ofFn_getD_prefix _ _ (by omega))).symm
  have hsched : s.expandKey.schedule = expand key := by
    rw [State.schedule, State.expandKey_ksz, State.keyLen, hwlen, ← hlen, htake]
  have hkeyWords : s.expandKey.scheduleKey = key := by
    rw [State.scheduleKey, State.expandKey_ksz, State.keyLen, hnk, ← hkey]
    conv_rhs => rw [← flatMap_take_expand key (by omega), ← htake, List.take_take]
    rw [Nat.min_eq_left (by omega)]
  exact ⟨hne, by rw [hsched, hkeyWords]⟩

/-! ### The lengths of what the commands push -/

theorem length_encQ {x : List Byte} (h : 1 ≤ x.length) : (encQ x).length = 4 := by
  match x, h with
  | [_], _ => rfl
  | [_, _], _ => rfl
  | _ :: _ :: _ :: _, _ => rfl

theorem length_b64Enc (x : List Byte) : (b64Enc x).length = 4 * ceilDiv x.length 3 := by
  induction x using b64Enc.induct with
  | case1 x0 x1 x2 rest ih =>
    rw [b64Enc, List.length_append, ih, length_encQ (by simp)]
    simp only [ceilDiv, List.length_cons]
    omega
  | case2 x0 x1 => simp [b64Enc, length_encQ, ceilDiv]
  | case3 x0 => simp [b64Enc, length_encQ, ceilDiv]
  | case4 => rfl

theorem length_cipherBlocks (n : Nat) (x : List Byte) (s : State) :
    (State.cipherBlocks n x s).2.length = min x.length (16 * n) := by
  induction n generalizing x s with
  | zero => simp [State.cipherBlocks]
  | succ n ih =>
    simp only [State.cipherBlocks, List.length_append, length_xorBytes, ih, List.length_take, List.length_drop,
      Vector.length_toList]
    omega

/-- The block loop over all blocks of a byte string produces as many bytes. -/
theorem length_cipherBlocks_all (x : List Byte) (s : State) :
    (State.cipherBlocks (ceilDiv x.length 16) x s).2.length = x.length := by
  rw [length_cipherBlocks, ceilDiv]
  omega

theorem length_peekIn {n : Nat} {s : State} (h : n ≤ s.din.length) : (s.peekIn n).length = n := by
  simpa [State.peekIn] using h

/-! ### What the steps of a command leave in DOUT -/

theorem deriveKey_dout (s : State) : s.deriveKey.dout = s.dout := by
  obtain ⟨k, w, z, bi, m, bo, h⟩ := deriveKey_frame s
  rw [h]

theorem cipherBlocks_dout (n : Nat) (x : List Byte) (s : State) : (State.cipherBlocks n x s).1.dout = s.dout := by
  obtain ⟨bi, m, bo, c, h⟩ := cipherBlocks_frame n x s
  rw [h]

theorem xorBlock_dout (k : Nat) (s : State) :
    (s.xorBlock k).dout = s.dout ++ xorBytes (s.peekIn k) s.blkout.toList := rfl

/-! ### What a command can do -/

/-- The commands that write W and KSZ: KEXP, alone or inside DRVK, ENCR and DECR (R24). -/
def writesSchedule : Instr → Bool
  | .kexp | .drvk | .encr | .decr => true
  | .nop | .srst | .ldst | .subb | .shrw | .mixc | .adrk _ | .stst | .encb | .pwbk | .gnnc | .ldnc | .emnc | .ctrb
  | .xorb _ | .cblk _ | .b64e _ | .b64d _ | .b64em | .b64dm => false

/-- What the rule of command `i` may have made of `s` before its completion: the host's inputs and the fault record are
kept; W and KSZ are kept, or hold a new schedule; NONCE and NV are kept, or NV is set. -/
structure Effect (i : Instr) (s u : State) : Prop where
  keybits : u.keybits = s.keybits
  pwlen : u.pwlen = s.pwlen
  pw : u.pw = s.pw
  arg : u.arg = s.arg
  inlen : u.inlen = s.inlen
  fault : u.fault = s.fault
  err : u.err = s.err
  errop : u.errop = s.errop
  errarg : u.errarg = s.errarg
  schedule : (u.w = s.w ∧ u.ksz = s.ksz) ∨ (writesSchedule i = true ∧ u.HoldsSchedule)
  nonce : (u.nonce = s.nonce ∧ u.nv = s.nv) ∨ u.nv = true

namespace Effect

variable {i : Instr} {s u v : State}

theorem refl : Effect i s s := ⟨rfl, rfl, rfl, rfl, rfl, rfl, rfl, rfl, rfl, .inl ⟨rfl, rfl⟩, .inl ⟨rfl, rfl⟩⟩

theorem trans (h : Effect i s u) (h' : Effect i u v) : Effect i s v where
  keybits := h'.keybits.trans h.keybits
  pwlen := h'.pwlen.trans h.pwlen
  pw := h'.pw.trans h.pw
  arg := h'.arg.trans h.arg
  inlen := h'.inlen.trans h.inlen
  fault := h'.fault.trans h.fault
  err := h'.err.trans h.err
  errop := h'.errop.trans h.errop
  errarg := h'.errarg.trans h.errarg
  schedule := by
    rcases h'.schedule with ⟨hw, hk⟩ | hnew
    · rcases h.schedule with ⟨hw', hk'⟩ | ⟨hi, hold⟩
      · exact .inl ⟨hw.trans hw', hk.trans hk'⟩
      · exact .inr ⟨hi, hold.congr hw hk⟩
    · exact .inr hnew
  nonce := by
    rcases h'.nonce with ⟨hn, hv⟩ | hset
    · rcases h.nonce with ⟨hn', hv'⟩ | hset'
      · exact .inl ⟨hn.trans hn', hv.trans hv'⟩
      · exact .inr (hv.trans hset')
    · exact .inr hset

/-- The registers of the data path, the queues and the environment may change freely. -/
theorem datapath {key : Vector Byte 32} {mat : Mat} {blkin blkout : Block} {ctr : BitVec 64} {din dout : List Byte}
    {env : Env} :
    Effect i u { u with
      key := key, mat := mat, blkin := blkin, blkout := blkout, ctr := ctr, din := din, dout := dout, env := env } :=
  ⟨rfl, rfl, rfl, rfl, rfl, rfl, rfl, rfl, rfl, .inl ⟨rfl, rfl⟩, .inl ⟨rfl, rfl⟩⟩

theorem dropIn (n : Nat) : Effect i u (u.dropIn n) := datapath

theorem pushOut (x : List Byte) : Effect i u (u.pushOut x) := datapath

theorem xorBlock (k : Nat) : Effect i u (u.xorBlock k) := datapath

theorem storeS : Effect i u u.storeS := by constructor <;> simp

theorem formPwBlock : Effect i u u.formPwBlock := by constructor <;> simp

theorem blkoutToKey : Effect i u u.blkoutToKey := by constructor <;> simp

theorem keyToBlkin : Effect i u u.keyToBlkin := by constructor <;> simp

theorem buildCounter : Effect i u u.buildCounter := by constructor <;> simp

theorem encipher : Effect i u u.encipher := encipher_eq u ▸ datapath

theorem cipherBlocks (n : Nat) (x : List Byte) : Effect i u (State.cipherBlocks n x u).1 := by
  obtain ⟨bi, m, bo, c, h⟩ := cipherBlocks_frame n x u
  exact h ▸ datapath

theorem genNonce : Effect i u u.genNonce :=
  ⟨rfl, rfl, rfl, rfl, rfl, rfl, rfl, rfl, rfl, .inl ⟨rfl, rfl⟩, .inr rfl⟩

theorem loadNonce (x : List Byte) : Effect i u (u.loadNonce x) :=
  ⟨rfl, rfl, rfl, rfl, rfl, rfl, rfl, rfl, rfl, .inl ⟨rfl, rfl⟩, .inr rfl⟩

theorem expandKey (hi : writesSchedule i = true) (h : legalKeybits u.keybits = true) : Effect i u u.expandKey := by
  constructor
  case schedule => exact .inr ⟨hi, expandKey_holdsSchedule u h⟩
  all_goals simp

theorem deriveKey (hi : writesSchedule i = true) (h : legalKeybits u.keybits = true) : Effect i u u.deriveKey := by
  have hexp : Effect i u u.formPwBlock.expandKey := formPwBlock.trans (expandKey hi (by simpa using h))
  have henc : Effect i u u.formPwBlock.expandKey.keyToBlkin.encipher.blkoutToKey :=
    ((hexp.trans keyToBlkin).trans encipher).trans blkoutToKey
  exact henc.trans (expandKey hi (henc.keybits ▸ h))

end Effect

/-- What a command answers: it completes after its effect, OUTLEN counting what it pushed; it takes a fault; it goes
into hold; or it is SRST. -/
inductive Answers (i : Instr) (s : State) : Result → Prop
  | completes {u : State} {n : Nat} {out : List Byte} (effect : Effect i s u) (dout : u.dout = s.dout ++ out)
      (length : out.length = n) : Answers i s (.next (u.complete n))
  | raises {e : ErrCode} (he : e ≠ .noFault) : Answers i s (s.raise e i)
  | waits : Answers i s (.next (s.enterHold i))
  | resets (hi : i = .srst) : Answers i s (.next s.toReset)

namespace Answers

variable {i : Instr} {s u : State}

/-- A command that pushes nothing. -/
theorem silent (h : Effect i s u) (hd : u.dout = s.dout) : Answers i s (.next (u.complete 0)) :=
  .completes h (hd.trans (List.append_nil _).symm) rfl

theorem ite {c : Prop} [Decidable c] {a b : Result} (ha : c → Answers i s a) (hb : ¬ c → Answers i s b) :
    Answers i s (if c then a else b) := by
  split
  next h => exact ha h
  next h => exact hb h

theorem holdUntil {n : Nat} {body : State → Result} (h : n ≤ s.din.length → Answers i s (body s)) :
    Answers i s (s.holdUntil n i body) := .ite h fun _ => .waits

end Answers

section Commands

variable (s : State)

theorem execKexp_answers : Answers .kexp s (execKexp s) :=
  .ite (fun h => .silent (.expandKey rfl h) (State.expandKey_dout s)) fun _ => .raises (by decide)

theorem execAdrk_answers (round : Byte) : Answers (.adrk round) s (execAdrk round s) :=
  .ite (fun _ => .ite (fun _ => .raises (by decide)) fun _ => .silent .datapath rfl) fun _ => .raises (by decide)

theorem execEncb_answers : Answers .encb s (execEncb s) :=
  .ite (fun _ => .raises (by decide)) fun _ => .silent .encipher (by rw [encipher_eq])

theorem execPwbk_answers : Answers .pwbk s (execPwbk s) :=
  .ite (fun _ => .silent .formPwBlock (State.formPwBlock_dout s)) fun _ => .raises (by decide)

theorem execDrvk_answers : Answers .drvk s (execDrvk s) :=
  .ite (fun h => .silent (.deriveKey rfl h) (deriveKey_dout s)) fun _ => .raises (by decide)

theorem execLdnc_answers : Answers .ldnc s (execLdnc s) :=
  .holdUntil fun _ => .silent ((Effect.dropIn 8).trans (.loadNonce _)) rfl

theorem execEmnc_answers : Answers .emnc s (execEmnc s) :=
  .ite (fun _ => .completes .datapath rfl s.nonce.length_toList) fun _ => .raises (by decide)

theorem execCtrb_answers : Answers .ctrb s (execCtrb s) :=
  .ite (fun _ => .silent .buildCounter (State.buildCounter_dout s)) fun _ => .raises (by decide)

/-- XORB k pushes `k` bytes when DIN holds them, a block having as many (R167); it is the end of CBLK k, too (R168). -/
theorem xorBlock_answers {i : Instr} {u : State} {k : Byte} (h : Effect i s u) (hdin : u.din = s.din)
    (hdout : u.dout = s.dout) (hk : blockLenInRange k = true) (hd : k.toNat ≤ s.din.length) :
    Answers i s (.next ((u.xorBlock k.toNat).complete k.toNat)) := by
  have hk : 1 ≤ k.toNat ∧ k.toNat ≤ 16 := of_decide_eq_true hk
  refine .completes (h.trans (.xorBlock _)) (hdout ▸ xorBlock_dout _ u) ?_
  rw [length_xorBytes, length_peekIn (hdin ▸ hd), Vector.length_toList]
  omega

theorem execXorb_answers (k : Byte) : Answers (.xorb k) s (execXorb k s) :=
  .ite (fun hk => .holdUntil fun hd => xorBlock_answers s .refl rfl rfl hk hd) fun _ => .raises (by decide)

theorem execCblk_answers (k : Byte) : Answers (.cblk k) s (execCblk k s) := by
  refine .ite (fun hk => .ite (fun _ => .raises (by decide)) fun _ => .holdUntil fun hd => ?_)
    fun _ => .raises (by decide)
  have hdin : s.buildCounter.encipher.din = s.din := by simp [encipher_eq]
  have hdout : s.buildCounter.encipher.dout = s.dout := by simp [encipher_eq]
  exact xorBlock_answers s (Effect.buildCounter.trans .encipher) hdin hdout hk hd

theorem encryptMessage_answers {n : Nat} (hk : legalKeybits s.keybits = true) (hd : n ≤ s.din.length) :
    Answers .encr s (s.encryptMessage n) := by
  have h : Effect .encr s s.genNonce.deriveKey := Effect.genNonce.trans (.deriveKey rfl hk)
  refine .completes (((h.trans (.cipherBlocks _ _)).trans (.dropIn _)).trans (.pushOut _))
    (out := b64Enc (s.genNonce.deriveKey.nonce.toList
      ++ (State.cipherBlocks (ceilDiv n 16) (s.peekIn n) s.genNonce.deriveKey).2)) ?_ ?_
  · rw [State.pushOut_dout, State.dropIn_dout, cipherBlocks_dout, deriveKey_dout, State.genNonce_dout]
  · have hc := length_cipherBlocks_all (s.peekIn n) s.genNonce.deriveKey
    rw [length_peekIn hd] at hc
    rw [length_b64Enc, List.length_append, Vector.length_toList, hc]

theorem execEncr_answers : Answers .encr s (execEncr s) :=
  .ite (fun hk => .holdUntil fun hd => encryptMessage_answers s hk hd) fun _ => .raises (by decide)

theorem decryptEnvelope_answers (n : Nat) (e : List Byte) (hk : legalKeybits s.keybits = true) :
    Answers .decr s (s.decryptEnvelope n e) := by
  have h : Effect .decr s ((s.dropIn n).loadNonce e).deriveKey :=
    ((Effect.dropIn n).trans (.loadNonce e)).trans (.deriveKey rfl hk)
  refine .completes ((h.trans (.cipherBlocks _ _)).trans (.pushOut _))
    (out := (State.cipherBlocks (ceilDiv (e.length - 8) 16) (e.drop 8) ((s.dropIn n).loadNonce e).deriveKey).2) ?_ ?_
  · rw [State.pushOut_dout, cipherBlocks_dout, deriveKey_dout, State.loadNonce_dout, State.dropIn_dout]
  · simpa using length_cipherBlocks_all (e.drop 8) ((s.dropIn n).loadNonce e).deriveKey

theorem decryptMessage_answers (n : Nat) (hk : legalKeybits s.keybits = true) :
    Answers .decr s (s.decryptMessage n) := by
  unfold State.decryptMessage
  split
  · exact .raises (by decide)
  · exact .ite (fun _ => .raises (by decide)) fun _ => decryptEnvelope_answers s n _ hk

theorem execDecr_answers : Answers .decr s (execDecr s) :=
  .ite (fun hk => .holdUntil fun _ => decryptMessage_answers s _ hk) fun _ => .raises (by decide)

theorem execB64e_answers (k : Byte) : Answers (.b64e k) s (execB64e k s) := by
  refine .ite (fun hk => .holdUntil fun hd => .completes .datapath rfl (length_encQ ?_)) fun _ => .raises (by decide)
  have hk : 1 ≤ k.toNat ∧ k.toNat ≤ 3 := of_decide_eq_true hk
  rw [length_peekIn hd]
  exact hk.1

theorem replaceIn_answers (i : Instr) (n : Nat) (x : List Byte) : Answers i s (s.replaceIn n x) :=
  .completes .datapath rfl rfl

theorem execB64d_answers (f : Byte) : Answers (.b64d f) s (execB64d f s) := by
  refine .ite (fun _ => .holdUntil fun _ => ?_) fun _ => .raises (by decide)
  split
  · exact .raises (by decide)
  · exact replaceIn_answers s _ _ _

theorem execB64em_answers : Answers .b64em s (execB64em s) :=
  .holdUntil fun hd => .completes .datapath rfl (by rw [length_b64Enc, length_peekIn hd])

theorem execB64dm_answers : Answers .b64dm s (execB64dm s) := by
  refine .holdUntil fun _ => ?_
  split
  · exact .raises (by decide)
  · exact replaceIn_answers s _ _ _

end Commands

/-- Every command completes, faults, waits or resets. -/
theorem exec_answers (i : Instr) (s : State) : Answers i s (exec i s) := by
  cases i with
  | nop => exact .silent .refl rfl
  | srst => exact .resets rfl
  | kexp => exact execKexp_answers s
  | ldst | subb | shrw | mixc => exact .silent .datapath rfl
  | adrk round => exact execAdrk_answers s round
  | stst => exact .silent .storeS (State.storeS_dout s)
  | encb => exact execEncb_answers s
  | pwbk => exact execPwbk_answers s
  | drvk => exact execDrvk_answers s
  | gnnc => exact .silent .genNonce (State.genNonce_dout s)
  | ldnc => exact execLdnc_answers s
  | emnc => exact execEmnc_answers s
  | ctrb => exact execCtrb_answers s
  | xorb k => exact execXorb_answers s k
  | cblk k => exact execCblk_answers s k
  | encr => exact execEncr_answers s
  | decr => exact execDecr_answers s
  | b64e k => exact execB64e_answers s k
  | b64d f => exact execB64d_answers s f
  | b64em => exact execB64em_answers s
  | b64dm => exact execB64dm_answers s

/-- The ways in which a command leads from `s` to `t`. -/
theorem exec_cases {i : Instr} {s t : State} (h : exec i s = .next t) :
    (∃ u out, Effect i s u ∧ u.dout = s.dout ++ out ∧ t = u.complete out.length)
    ∨ (∃ e, e ≠ .noFault ∧ t = s.faultEntry e i.op i.operand)
    ∨ t = s.enterHold i
    ∨ (i = .srst ∧ t = s.toReset) := by
  have ha := exec_answers i s
  rw [h] at ha
  cases ha with
  | completes effect dout length => exact .inl ⟨_, _, effect, dout, by rw [length]⟩
  | raises he => exact .inr (.inl ⟨_, he, rfl⟩)
  | waits => exact .inr (.inr (.inl rfl))
  | resets hi => exact .inr (.inr (.inr ⟨hi, rfl⟩))

/-! ### What the bus can do -/

/-- `t` differs from `s` in nothing the invariants speak of, but for a PWLEN that is still clamped. -/
structure Quiet (s t : State) : Prop where
  pwlen : s.pwlen.toNat ≤ 32 → t.pwlen.toNat ≤ 32
  fault : t.fault = s.fault
  err : t.err = s.err
  errop : t.errop = s.errop
  errarg : t.errarg = s.errarg
  busy : t.busy = s.busy
  done : t.done = s.done
  held : t.held = s.held
  outlen : t.outlen = s.outlen
  w : t.w = s.w
  ksz : t.ksz = s.ksz
  nonce : t.nonce = s.nonce
  nv : t.nv = s.nv

/-- The registers the host writes, the data path, the queues and the environment may change freely. -/
theorem Quiet.hostSide {s : State} {keybits : BitVec 16} {pwlen : BitVec 6} {pw key : Vector Byte 32} {mat : Mat}
    {blkin blkout : Block} {ctr inlen : BitVec 64} {arg : Byte} {din dout : List Byte} {env : Env}
    (hp : s.pwlen.toNat ≤ 32 → pwlen.toNat ≤ 32) :
    Quiet s { s with
      keybits := keybits, pwlen := pwlen, pw := pw, key := key, mat := mat, blkin := blkin, blkout := blkout
      ctr := ctr, inlen := inlen, arg := arg, din := din, dout := dout, env := env } :=
  ⟨hp, rfl, rfl, rfl, rfl, rfl, rfl, rfl, rfl, rfl, rfl, rfl, rfl⟩

theorem clampPwlen_le (v : Byte) : (clampPwlen v).toNat ≤ 32 := by
  rw [clampPwlen, BitVec.toNat_ofNat]
  omega

theorem writeReg_quiet (s : State) (off : Nat) (v : Byte) (reg : Reg) : Quiet s (s.writeReg off v reg) := by
  cases reg
  case pwlen => exact .hostSide fun _ => clampPwlen_le v
  all_goals exact .hostSide id

theorem hostRead_quiet (s : State) (a : BitVec 12) : Quiet s (s.hostRead a) := by
  unfold State.hostRead State.readEffect
  split <;> exact .hostSide id

/-- The register CMD lies at address 0 only (R62). -/
theorem locate_cmd {a : BitVec 12} {off : Nat} (h : locate a.toNat = some (.cmd, off)) : a = 0x000 := by
  obtain ⟨r, hfind, hr⟩ := Option.map_eq_some_iff.mp h
  have honly : ∀ r ∈ addressMap, r.reg = .cmd → r = ⟨0x000, 1, .cmd⟩ := by decide
  have hcmd : r = ⟨0x000, 1, .cmd⟩ := honly r (List.mem_of_find?_eq_some hfind) (congrArg Prod.fst hr)
  have hholds : 0x000 ≤ a.toNat ∧ a.toNat < 0x000 + 1 := by
    simpa [hcmd, Region.holds] using List.find?_some hfind
  exact BitVec.eq_of_toNat_eq (by simpa using hholds.2)

/-- What an event can make of `s`: nothing the invariants speak of; the reset state; the fault of an illegal command
word; or the answer of a command, issued with FAULT = 0 or resumed from its hold by a push. -/
inductive Served (s : State) : State → Prop
  | quiet {t : State} (h : Quiet s t) : Served s t
  | reset : Served s s.toReset
  | illegal (op arg : Byte) : Served s (s.faultEntry .illegalCommand op arg)
  | ran {i : Instr} {busy done : Bool} {din : List Byte} {t : State} (hrun : s.fault = false ∨ s.held.isSome = true)
      (h : exec i { s with busy := busy, done := done, din := din } = .next t) : Served s t

section Bus

variable {s t : State}

theorem issue_served {op : Byte} (h : s.issue op = .next t) : Served s t := by
  unfold State.issue at h
  split at h
  next hfault =>
    split at h <;> cases h
    · exact .reset
    · exact .quiet (.hostSide id)
  next hfault =>
    split at h
    · exact .ran (.inl (by simpa using hfault)) h
    · cases h
      exact .illegal op s.arg

theorem pushIn_served {v : Byte} (h : s.pushIn v = .next t) : Served s t := by
  unfold State.pushIn at h
  dsimp only at h
  split at h
  next => cases h; exact .quiet (.hostSide id)
  next i hheld => exact .ran (.inr (Option.isSome_of_eq_some hheld)) h

/-- A host write issues a command at CMD, pushes at DIN, and elsewhere touches nothing but the host's registers. -/
theorem hostWrite_cases {a : BitVec 12} {v : Byte} (h : s.hostWrite a v = .next t) :
    (a = 0x000 ∧ s.issue v = .next t) ∨ s.pushIn v = .next t ∨ Quiet s t := by
  unfold State.hostWrite at h
  split at h
  next off hloc => exact .inl ⟨locate_cmd hloc, h⟩
  next => exact .inr (.inl h)
  next reg off _ _ _ => cases h; exact .inr (.inr (writeReg_quiet s off v reg))
  next => cases h; exact .inr (.inr (.hostSide id))

theorem serve_served {e : Event} (h : s.serve e = .next t) : Served s t := by
  cases e with
  | read a =>
    simp only [State.serve, State.busyRead] at h
    split at h
    · split at h <;> cases h
      exact .quiet (hostRead_quiet s a)
    · cases h
      exact .quiet (hostRead_quiet s a)
  | write a v =>
    simp only [State.serve, State.busyWrite] at h
    split at h
    · split at h
      · exact pushIn_served h
      · cases h
    · rcases hostWrite_cases h with ⟨-, hissue⟩ | hpush | hquiet
      · exact issue_served hissue
      · exact pushIn_served hpush
      · exact .quiet hquiet
  | clock sec ms => cases h; exact .quiet (.hostSide id)
  | reset => cases h; exact .reset

/-- A step changes nothing the invariants speak of, or serves an event in the state with a shorter script. -/
theorem step_cases (h : step s = .next t) : t = s ∨ ∃ rest, Served (s.withScript rest) t := by
  unfold step State.advance at h
  split at h
  · cases h; exact .inl rfl
  · exact .inr ⟨_, serve_served h⟩

end Bus

/-! ### The rules about the whole machine -/

/-- Settles O53: a command that ends with DONE = 1 completed, and its completion counts the bytes of its effect. -/
theorem outlenCountsThePushedBytes : Obligations.OutlenCountsThePushedBytes := by
  intro i s t h hdone
  rcases exec_cases h with ⟨u, out, -, hdout, rfl⟩ | ⟨e, -, rfl⟩ | rfl | ⟨-, rfl⟩
  · exact ⟨out, hdout, count64_of_lt⟩
  · cases hdone
  · cases hdone
  · cases hdone

/-- Settles O54: neither an effect, nor completion, fault entry or hold writes a register of the host's inputs. -/
theorem commandsDoNotWriteTheHostsInputs : Obligations.CommandsDoNotWriteTheHostsInputs := by
  intro i s t hi h
  rcases exec_cases h with ⟨u, out, hu, -, rfl⟩ | ⟨e, -, rfl⟩ | rfl | ⟨hsrst, -⟩
  · exact ⟨hu.keybits, hu.pw, hu.pwlen, hu.arg, hu.inlen⟩
  · exact ⟨rfl, rfl, rfl, rfl, rfl⟩
  · exact ⟨rfl, rfl, rfl, rfl, rfl⟩
  · exact absurd hsrst hi

theorem writesSchedule_iff (i : Instr) : writesSchedule i = true ↔ i = .kexp ∨ i = .drvk ∨ i = .encr ∨ i = .decr := by
  cases i <;> simp [writesSchedule]

theorem pushIn_no_hold {s : State} (h : s.held = none) (v : Byte) :
    s.pushIn v = .next { s with din := s.din ++ [v] } := by
  simp only [State.pushIn, h]

/-- Settles O55: a command's effect writes W and KSZ only where KEXP is part of the command, and of the host writes only
a command issue or a push that resumes a command runs one. -/
theorem scheduleIsWrittenByKexpOnly : Obligations.ScheduleIsWrittenByKexpOnly := by
  constructor
  · intro i s t hkexp hdrvk hencr hdecr hsrst h
    rcases exec_cases h with ⟨u, out, hu, -, rfl⟩ | ⟨e, -, rfl⟩ | rfl | ⟨hi, -⟩
    · rcases hu.schedule with hkept | ⟨hwrites, -⟩
      · exact hkept
      · have hi := (writesSchedule_iff i).mp hwrites
        simp [hkexp, hdrvk, hencr, hdecr] at hi
    · exact ⟨rfl, rfl⟩
    · exact ⟨rfl, rfl⟩
    · exact absurd hi hsrst
  · intro s t a v ha hheld h
    rcases hostWrite_cases h with ⟨hcmd, -⟩ | hpush | hquiet
    · exact absurd hcmd ha
    · rw [pushIn_no_hold hheld] at hpush
      cases hpush
      exact ⟨rfl, rfl⟩
    · exact ⟨hquiet.w, hquiet.ksz⟩

/-! ### The control registers stay consistent -/

theorem toReset_statusInv (s : State) : s.toReset.StatusInv := by
  simp [State.StatusInv, State.toReset, State.reset]

theorem Quiet.statusInv {s t : State} (h : Quiet s t) (hs : s.StatusInv) : t.StatusInv := by
  obtain ⟨hpwlen, hfault, hrecord, hheld, hbusy, hout⟩ := hs
  refine ⟨h.pwlen hpwlen, ?_, ?_, ?_, ?_, ?_⟩
  · rwa [h.fault, h.err]
  · rwa [h.err, h.errop, h.errarg]
  · rwa [h.busy, h.held]
  · rwa [h.busy, h.done, h.fault]
  · rwa [h.fault, h.done, h.outlen]

theorem faultEntry_statusInv {s : State} (hp : s.pwlen.toNat ≤ 32) {e : ErrCode} (he : e ≠ .noFault) (op arg : Byte) :
    (s.faultEntry e op arg).StatusInv := by
  refine ⟨hp, ?_, fun h => absurd h he, ?_, ?_, ?_⟩ <;> simp [he]

/-- No fault stands: FAULT and the record of R31 are 0. -/
def State.NoFault (s : State) : Prop := s.fault = false ∧ s.err = .noFault ∧ s.errop = 0 ∧ s.errarg = 0

theorem State.StatusInv.noFault {s : State} (hs : s.StatusInv) (hf : s.fault = false) : s.NoFault := by
  obtain ⟨-, hfault, hrecord, -, -, -⟩ := hs
  have herr : s.err = .noFault := by
    by_contra hne
    rw [hfault.mpr hne] at hf
    cases hf
  exact ⟨hf, herr, hrecord herr⟩

/-- A command that starts with no fault standing leaves the control registers consistent, whatever BUSY, DONE and the
hold were. -/
theorem exec_statusInv {i : Instr} {s t : State} (h : exec i s = .next t) (hp : s.pwlen.toNat ≤ 32) (hs : s.NoFault) :
    t.StatusInv := by
  obtain ⟨hf, herr, hop, harg⟩ := hs
  rcases exec_cases h with ⟨u, out, hu, -, rfl⟩ | ⟨e, he, rfl⟩ | rfl | ⟨-, rfl⟩
  · refine ⟨hu.pwlen ▸ hp, ?_, fun _ => ⟨hu.errop.trans hop, hu.errarg.trans harg⟩, ?_, ?_, ?_⟩ <;>
      simp [hu.fault, hu.err, hf, herr]
  · exact faultEntry_statusInv hp he _ _
  · refine ⟨hp, ?_, fun _ => ⟨hop, harg⟩, ?_, ?_, ?_⟩ <;> simp [hf, herr]
  · exact toReset_statusInv s

theorem Served.statusInv {s t : State} (h : Served s t) (hs : s.StatusInv) : t.StatusInv := by
  obtain ⟨hp, -, -, hheld, hhold, -⟩ := id hs
  cases h with
  | quiet hq => exact hq.statusInv hs
  | reset => exact toReset_statusInv s
  | illegal op arg => exact faultEntry_statusInv hp (by decide) op arg
  | ran hrun h =>
    have hfault : s.fault = false := hrun.elim id fun hsome => (hhold (hheld.mpr hsome)).2
    exact exec_statusInv h hp (hs.noFault hfault)

/-- Settles O58, event by event: no event but a command touches the control registers, and a command runs only while no
fault stands. -/
theorem everyStepKeepsStatusInv : Obligations.EveryStepKeepsStatusInv := by
  intro s t hs h
  rcases step_cases h with rfl | ⟨rest, hserved⟩
  · exact hs
  · exact hserved.statusInv hs

/-! ### W stays the expansion of its own key words -/

theorem scheduleInv_of_kept {s t : State} (hs : s.ScheduleInv) (hw : t.w = s.w) (hk : t.ksz = s.ksz)
    (hn : t.nonce = s.nonce) (hv : t.nv = s.nv) : t.ScheduleInv := by
  simpa [State.ScheduleInv, State.schedule, State.scheduleKey, hw, hk, hn, hv] using hs

theorem toReset_scheduleInv (s : State) : s.toReset.ScheduleInv := ⟨fun h => absurd rfl h, fun _ => rfl, fun _ => rfl⟩

theorem Effect.scheduleInv {i : Instr} {s u : State} (h : Effect i s u) (hs : s.ScheduleInv) : u.ScheduleInv := by
  obtain ⟨hheld, hempty, hnonce⟩ := hs
  have hnonce' : u.nv = false → u.nonce = Vector.replicate 8 0 := by
    intro hnv
    rcases h.nonce with ⟨hn, hv⟩ | hset
    · exact hn.trans (hnonce (hv.symm.trans hnv))
    · rw [hset] at hnv
      cases hnv
  rcases h.schedule with ⟨hw, hk⟩ | ⟨-, hne, hnew⟩
  · exact ⟨fun hne => (State.HoldsSchedule.congr ⟨hk ▸ hne, hheld (hk ▸ hne)⟩ hw hk).2,
      fun he => hw.trans (hempty (hk.symm.trans he)), hnonce'⟩
  · exact ⟨fun _ => hnew, fun he => absurd he hne, hnonce'⟩

theorem exec_scheduleInv {i : Instr} {s t : State} (h : exec i s = .next t) (hs : s.ScheduleInv) : t.ScheduleInv := by
  rcases exec_cases h with ⟨u, out, hu, -, rfl⟩ | ⟨e, -, rfl⟩ | rfl | ⟨-, rfl⟩
  · exact hu.scheduleInv hs
  · exact hs
  · exact hs
  · exact toReset_scheduleInv s

theorem Served.scheduleInv {s t : State} (h : Served s t) (hs : s.ScheduleInv) : t.ScheduleInv := by
  cases h with
  | quiet hq => exact scheduleInv_of_kept hs hq.w hq.ksz hq.nonce hq.nv
  | reset => exact toReset_scheduleInv s
  | illegal op arg => exact hs
  | ran _ h => exact exec_scheduleInv h hs

/-- Settles O60: W, KSZ, NONCE and NV change by commands and reset only, and a command keeps them, loads a nonce, or
leaves the schedule of a fresh key. -/
theorem everyStepKeepsScheduleInv : Obligations.EveryStepKeepsScheduleInv := by
  intro s t hs h
  rcases step_cases h with rfl | ⟨rest, hserved⟩
  · exact hs
  · exact hserved.scheduleInv hs

/-- Settles O57: the reset state is what a reset makes of itself, and no command is in hold there. -/
theorem invariantsHoldAtReset : Obligations.InvariantsHoldAtReset :=
  ⟨toReset_statusInv .reset, fun _ h => (nomatch h), toReset_scheduleInv .reset⟩

end Sys2Proof.Machine

namespace Sys2Proof.Machine

/-! ### The address map: every register has one region, and no two regions meet (R62) -/

/-- The row of R62 that names the register. -/
def Reg.region (reg : Reg) : Region := (addressMap.find? fun r => r.reg == reg).getD ⟨0, 0, reg⟩

theorem Reg.region_mem (reg : Reg) : reg.region ∈ addressMap := by cases reg <;> decide

theorem Reg.region_reg (reg : Reg) : reg.region.reg = reg := by cases reg <;> rfl

theorem eq_region_of_mem : ∀ r ∈ addressMap, r = r.reg.region := by decide

theorem addressMap_disjoint : ∀ r ∈ addressMap, ∀ r' ∈ addressMap,
    r = r' ∨ r.base + r.len ≤ r'.base ∨ r'.base + r'.len ≤ r.base := by decide

theorem Reg.region_end_le (reg : Reg) : reg.region.base + reg.region.len ≤ 0x1000 := by cases reg <;> decide

theorem Region.holds_iff {a : Nat} {r : Region} : r.holds a = true ↔ r.base ≤ a ∧ a < r.base + r.len :=
  decide_eq_true_iff

/-- The decoder of addresses inverts the map. -/
theorem locate_eq_some_iff {a off : Nat} {reg : Reg} :
    locate a = some (reg, off) ↔ a = reg.region.base + off ∧ off < reg.region.len := by
  constructor
  · intro h
    obtain ⟨r, hfind, hr⟩ := Option.map_eq_some_iff.mp h
    obtain ⟨rfl, rfl⟩ := Prod.mk.inj hr
    have hholds := Region.holds_iff.mp (List.find?_some hfind)
    rw [← eq_region_of_mem r (List.mem_of_find?_eq_some hfind)]
    omega
  · rintro ⟨rfl, hoff⟩
    have hholds : reg.region.holds (reg.region.base + off) = true := Region.holds_iff.mpr (by omega)
    obtain ⟨r, hfind⟩ := Option.isSome_iff_exists.mp (List.find?_isSome.mpr ⟨_, Reg.region_mem reg, hholds⟩)
    have hr := Region.holds_iff.mp (List.find?_some hfind)
    have hsame : r = reg.region := by
      obtain h | h | h := addressMap_disjoint r (List.mem_of_find?_eq_some hfind) _ (Reg.region_mem reg)
      · exact h
      · omega
      · omega
    simp [locate, hfind, hsame, Reg.region_reg]

theorem locate_eq_none_iff {a : Nat} : locate a = none ↔ ∀ r ∈ addressMap, r.holds a = false := by
  simp [locate]

theorem locate_of_holds {a : Nat} {reg : Reg} (h : reg.region.holds a = true) :
    locate a = some (reg, a - reg.region.base) := by
  have := Region.holds_iff.mp h
  exact locate_eq_some_iff.mpr (by omega)

/-- Two addresses of one byte are equal. -/
theorem locate_injective {a b : Nat} {p : Reg × Nat} (ha : locate a = some p) (hb : locate b = some p) : a = b := by
  obtain ⟨hpa, -⟩ := locate_eq_some_iff.mp ha
  obtain ⟨hpb, -⟩ := locate_eq_some_iff.mp hb
  rw [hpa, hpb]

/-! ### The access classes of the map -/

/-- The registers with access R in R62. -/
def Reg.readOnly : Reg → Bool
  | .status | .err | .errop | .errarg | .dout | .outlen | .nonce | .dincnt | .doutcnt | .blkout | .mat | .rcon | .sbox
  | .w => true
  | .cmd | .arg | .keybits | .pwlen | .din | .inlen | .ctr | .pw | .key | .blkin => false

/-- The registers with access RW in R62 that store the byte written as it is (R73). -/
def Reg.plain : Reg → Bool
  | .arg | .keybits | .inlen | .ctr | .pw | .key | .blkin => true
  | .cmd | .status | .err | .errop | .errarg | .pwlen | .din | .dout | .outlen | .nonce | .dincnt | .doutcnt | .blkout
  | .mat | .rcon | .sbox | .w => false

/-- An address in the region of a register of class `p` is located in a register of that class. -/
theorem exists_locate_of_holds {a : Nat} {p : Reg → Bool} (h : ∃ r ∈ addressMap, p r.reg = true ∧ r.holds a = true) :
    ∃ reg off, locate a = some (reg, off) ∧ p reg = true := by
  obtain ⟨r, hmem, hp, hholds⟩ := h
  exact ⟨r.reg, _, locate_of_holds (eq_region_of_mem r hmem ▸ hholds), hp⟩

theorem locate_of_readOnlyAddress {a : Nat} (h : readOnlyAddress a = true) :
    ∃ reg off, locate a = some (reg, off) ∧ reg.readOnly = true := by
  apply exists_locate_of_holds
  simp [readOnlyAddress] at h
  simp [addressMap, Reg.readOnly, Region.holds_iff]
  omega

theorem locate_of_plainAddress {a : Nat} (h : plainAddress a = true) :
    ∃ reg off, locate a = some (reg, off) ∧ reg.plain = true := by
  apply exists_locate_of_holds
  simp [plainAddress] at h
  simp [addressMap, Reg.plain, Region.holds_iff]
  omega

theorem locate_of_reservedAddress {a : Nat} (h : reservedAddress a = true) : locate a = none := by
  rw [locate_eq_none_iff]
  simp [reservedAddress] at h
  simp [addressMap, Region.holds]
  omega

/-! ### What a read returns (R223) -/

theorem readByte_of_locate {s : State} {a : BitVec 12} {reg : Reg} {off : Nat} (h : locate a.toNat = some (reg, off)) :
    s.readByte a = s.regByte off reg := by
  rw [State.readByte, h]

theorem readByte_of_locate_none {s : State} {a : BitVec 12} (h : locate a.toNat = none) : s.readByte a = 0 := by
  rw [State.readByte, h]

/-- Byte `off` of a register is read at the register's base address plus `off`. -/
theorem readByte_region (s : State) (reg : Reg) {off : Nat} (h : off < reg.region.len) :
    s.readByte (BitVec.ofNat 12 (reg.region.base + off)) = s.regByte off reg := by
  have hend := Reg.region_end_le reg
  have ha : (BitVec.ofNat 12 (reg.region.base + off)).toNat = reg.region.base + off := by
    rw [BitVec.toNat_ofNat, Nat.mod_eq_of_lt (by omega)]
  exact readByte_of_locate (locate_eq_some_iff.mpr ⟨ha, h⟩)

theorem hostRead_of_ne_dout (s : State) {a : BitVec 12} (h : a ≠ 0x00A) : s.hostRead a = s.reply (s.readByte a) := by
  rw [State.hostRead, State.readEffect, if_neg h]

theorem beByte_eight (v : BitVec 64) {i : Nat} (h : i < 8) : beByte v 8 i = v.extractLsb' (56 - 8 * i) 8 := by
  rw [beByte, show 8 * (8 - 1 - i) = 56 - 8 * i by omega]

theorem matByte_serialized (t : Mat) (r c : Fin 4) : matByte t (r.val + 4 * c.val) = cell t r c := by
  have hr : (r.val + 4 * c.val) % 4 = r.val := by omega
  have hc : (r.val + 4 * c.val) / 4 = c.val := by omega
  simp [matByte, cell, hr, hc, Vector.get_eq_getElem, byteAt_of_lt]

theorem rowByte_div (i : Nat) {j : Nat} (h : j < 4) : (4 * i + j) / 4 = i ∧ (4 * i + j) % 4 = j := by omega

/-- The bits of STATUS (R30). -/
theorem status_bits (s : State) :
    s.status.getLsbD 0 = s.busy ∧ s.status.getLsbD 1 = s.done ∧ s.status.getLsbD 2 = s.fault
      ∧ s.status.getLsbD 3 = s.nv ∧ s.status.extractLsb' 4 2 = s.ksz.code ∧ s.status.extractLsb' 6 2 = 0 := by
  have hconcat : ∀ (k : BitVec 2) (nv fault done busy : Bool),
      let b : Byte := 0#2 ++ k ++ BitVec.ofBool nv ++ BitVec.ofBool fault ++ BitVec.ofBool done ++ BitVec.ofBool busy
      b.getLsbD 0 = busy ∧ b.getLsbD 1 = done ∧ b.getLsbD 2 = fault ∧ b.getLsbD 3 = nv ∧ b.extractLsb' 4 2 = k
        ∧ b.extractLsb' 6 2 = 0 := by decide
  exact hconcat s.ksz.code s.nv s.fault s.done s.busy

/-- Settles O7: each clause is `readByte_region` at one row of the map. -/
theorem hostReadsFollowTheMap : Obligations.HostReadsFollowTheMap := by
  intro s
  refine ⟨readByte_region s .arg (off := 0) (by decide), ?status, readByte_region s .err (off := 0) (by decide),
    readByte_region s .errop (off := 0) (by decide), readByte_region s .errarg (off := 0) (by decide),
    readByte_region s .keybits (off := 0) (by decide), readByte_region s .keybits (off := 1) (by decide),
    readByte_region s .pwlen (off := 0) (by decide), ?eightByte, count64_of_lt, count64_of_lt, ?password, ?blocks, ?mat,
    ?rcon, ?sbox, ?schedule⟩
  case status =>
    have hstatus : s.readByte 0x002 = s.status := readByte_region s .status (off := 0) (by decide)
    rw [hstatus]
    exact status_bits s
  case eightByte =>
    intro i h
    exact ⟨(readByte_region s .inlen h).trans (beByte_eight _ h),
      (readByte_region s .outlen h).trans (beByte_eight _ h), (readByte_region s .ctr h).trans (beByte_eight _ h),
      (readByte_region s .nonce h).trans (byteAt_of_lt _ i h), (readByte_region s .dincnt h).trans (beByte_eight _ h),
      (readByte_region s .doutcnt h).trans (beByte_eight _ h)⟩
  case password =>
    intro i h
    exact ⟨(readByte_region s .pw h).trans (byteAt_of_lt _ i h), (readByte_region s .key h).trans (byteAt_of_lt _ i h)⟩
  case blocks =>
    intro i h
    exact ⟨(readByte_region s .blkin h).trans (byteAt_of_lt _ i h),
      (readByte_region s .blkout h).trans (byteAt_of_lt _ i h)⟩
  case mat =>
    intro r c
    have hoff : r.val + 4 * c.val < 16 := by omega
    rw [Nat.add_assoc]
    exact (readByte_region s .mat hoff).trans (matByte_serialized s.mat r c)
  case rcon =>
    intro r j hj hr
    have hoff : 4 * r + j < 44 := by omega
    obtain ⟨hdiv, hmod⟩ := rowByte_div r hj
    rw [Nat.add_assoc]
    refine (readByte_region s .rcon hoff).trans ?_
    rw [State.regByte, hdiv, hmod, byteAt_of_lt _ j hj]
  case sbox =>
    intro a
    refine (readByte_region s .sbox a.isLt).trans ?_
    rw [State.regByte, BitVec.ofNat_toNat, BitVec.setWidth_eq]
  case schedule =>
    intro i j hi hj
    have hoff : 4 * i + j < 240 := by omega
    obtain ⟨hdiv, hmod⟩ := rowByte_div i hj
    rw [Nat.add_assoc]
    refine (readByte_region s .w hoff).trans ?_
    rw [State.regByte, hdiv, hmod, byteAt_of_lt _ j hj]
    simp [List.getD_eq_getElem?_getD, hi]

/-! ### What a write stores (R224) -/

theorem hostWrite_of_locate {s : State} {a : BitVec 12} {v : Byte} {reg : Reg} {off : Nat}
    (h : locate a.toNat = some (reg, off)) (hcmd : reg ≠ .cmd) (hdin : reg ≠ .din) :
    s.hostWrite a v = .next (s.writeReg off v reg) := by
  unfold State.hostWrite
  rw [h]
  cases reg
  case cmd => exact absurd rfl hcmd
  case din => exact absurd rfl hdin
  all_goals rfl

theorem hostWrite_of_locate_none {s : State} {a : BitVec 12} {v : Byte} (h : locate a.toNat = none) :
    s.hostWrite a v = .next s := by
  rw [State.hostWrite, h]

theorem writeReg_readOnly (s : State) (off : Nat) (v : Byte) {reg : Reg} (h : reg.readOnly = true) :
    s.writeReg off v reg = s := by
  cases reg
  case arg | keybits | pwlen | inlen | ctr | pw | key | blkin => cases h
  all_goals rfl

/-- Settles O8: a reserved address lies in no region, and `writeReg` keeps the state at a read-only register. -/
theorem reservedReadZeroReadOnlyIgnoreWrites : Obligations.ReservedReadZeroReadOnlyIgnoreWrites := by
  constructor
  · intro s a h
    have hbyte : s.readByte a = 0 := by
      rcases h with hreserved | rfl | rfl
      · exact readByte_of_locate_none (locate_of_reservedAddress hreserved)
      · exact readByte_region s .cmd (off := 0) (by decide)
      · exact readByte_region s .din (off := 0) (by decide)
    have hdout : a ≠ 0x00A := by
      rintro rfl
      revert h
      decide
    rw [hostRead_of_ne_dout s hdout, hbyte, State.reply]
  · intro s a v h
    rcases h with hreserved | hreadOnly
    · exact hostWrite_of_locate_none (locate_of_reservedAddress hreserved)
    · obtain ⟨reg, off, hloc, hro⟩ := locate_of_readOnlyAddress hreadOnly
      have hcmd : reg ≠ .cmd := by rintro rfl; cases hro
      have hdin : reg ≠ .din := by rintro rfl; cases hro
      rw [hostWrite_of_locate hloc hcmd hdin, writeReg_readOnly s off v hro]

/-! ### A byte written to a register (R72) -/

/-- The bits of the byte written are those of `b`, the others stay. -/
theorem getLsbD_setBeByte {n : Nat} (v : BitVec n) (len i : Nat) (b : Byte) {m : Nat} (hm : m < n) :
    (setBeByte v len i b).getLsbD m =
      if 8 * (len - 1 - i) ≤ m ∧ m < 8 * (len - 1 - i) + 8 then b.getLsbD (m - 8 * (len - 1 - i)) else v.getLsbD m := by
  unfold setBeByte
  generalize 8 * (len - 1 - i) = p
  rcases Nat.lt_or_ge m p with hbelow | hp
  · simp [hm, hbelow, Nat.not_le.mpr hbelow]
  obtain ⟨k, rfl⟩ := Nat.exists_eq_add_of_le hp
  rcases Nat.lt_or_ge k 8 with hk | habove
  · have hones : (0xFF#8)[k] = true := BitVec.getElem_allOnes k hk
    simp [hm, hk, hones]
  · simp [hm, Nat.not_lt.mpr habove, BitVec.getLsbD_of_ge _ k habove]

section BigEndian

variable {n len i : Nat} (v : BitVec n) (b : Byte) (hn : 8 * len ≤ n) (hi : i < len)

include hn hi

theorem beByte_setBeByte_same : beByte (setBeByte v len i b) len i = b := by
  apply BitVec.eq_of_getLsbD_eq
  intro k hk
  have hm : 8 * (len - 1 - i) + k < n := by omega
  rw [beByte, BitVec.getLsbD_extractLsb', getLsbD_setBeByte v len i b hm, if_pos (by omega), Nat.add_sub_cancel_left]
  simp [hk]

theorem beByte_setBeByte_ne {j : Nat} (hj : j < len) (h : j ≠ i) :
    beByte (setBeByte v len i b) len j = beByte v len j := by
  apply BitVec.eq_of_getLsbD_eq
  intro k hk
  have hm : 8 * (len - 1 - j) + k < n := by omega
  rw [beByte, beByte, BitVec.getLsbD_extractLsb', getLsbD_setBeByte v len i b hm, if_neg (by omega),
    BitVec.getLsbD_extractLsb']

end BigEndian

theorem byteAt_setIfInBounds_same {n : Nat} (x : Vector Byte n) {i : Nat} (b : Byte) (h : i < n) :
    byteAt (x.setIfInBounds i b) i = b := by
  simp [byteAt_of_lt _ i h]

theorem byteAt_setIfInBounds_ne {n : Nat} (x : Vector Byte n) {i j : Nat} (b : Byte) (hj : j < n) (h : j ≠ i) :
    byteAt (x.setIfInBounds i b) j = byteAt x j := by
  simp [byteAt_of_lt _ j hj, Ne.symm h]

/-! ### A write to a plain register seen through a read (R72, R73) -/

section PlainWrite

variable (s : State) (v : Byte) {reg : Reg} {off : Nat} (hplain : reg.plain = true)

include hplain

theorem regByte_writeReg_same (h : off < reg.region.len) : (s.writeReg off v reg).regByte off reg = v := by
  cases reg
  case arg => rfl
  case keybits => exact beByte_setBeByte_same _ v (by decide) h
  case inlen | ctr => exact beByte_setBeByte_same _ v (by decide) h
  case pw | key | blkin => exact byteAt_setIfInBounds_same _ v h
  all_goals cases hplain

theorem regByte_writeReg_offset {off' : Nat} (h : off < reg.region.len) (h' : off' < reg.region.len)
    (hne : off' ≠ off) :
    (s.writeReg off v reg).regByte off' reg = s.regByte off' reg := by
  cases reg
  case arg => exact absurd ((Nat.lt_one_iff.mp h').trans (Nat.lt_one_iff.mp h).symm) hne
  case keybits | inlen | ctr => exact beByte_setBeByte_ne _ v (by decide) h h' hne
  case pw | key | blkin => exact byteAt_setIfInBounds_ne _ v h' hne
  all_goals cases hplain

theorem regByte_writeReg_reg {reg' : Reg} (off' : Nat) (hne : reg' ≠ reg) :
    (s.writeReg off v reg).regByte off' reg' = s.regByte off' reg' := by
  cases reg
  case arg | keybits | inlen | ctr | pw | key | blkin =>
    cases reg' <;> simp_all [State.writeReg, State.regByte, State.status, State.dincnt, State.doutcnt]
  all_goals cases hplain

theorem writeReg_plain_frame :
    s.writeReg off v reg = { s with
      arg := (s.writeReg off v reg).arg, keybits := (s.writeReg off v reg).keybits
      inlen := (s.writeReg off v reg).inlen, ctr := (s.writeReg off v reg).ctr, pw := (s.writeReg off v reg).pw
      key := (s.writeReg off v reg).key, blkin := (s.writeReg off v reg).blkin } := by
  cases reg
  case arg | keybits | inlen | ctr | pw | key | blkin => rfl
  all_goals cases hplain

/-- A write to a plain register is seen at its own byte only. -/
theorem regByte_writeReg_ne {reg' : Reg} {off' : Nat} (h : off < reg.region.len) (h' : off' < reg'.region.len)
    (hne : (reg', off') ≠ (reg, off)) : (s.writeReg off v reg).regByte off' reg' = s.regByte off' reg' := by
  by_cases hreg : reg' = reg
  · subst hreg
    exact regByte_writeReg_offset s v hplain h h' fun hoff => hne (by rw [hoff])
  · exact regByte_writeReg_reg s v hplain off' hreg

end PlainWrite

/-- Settles O9: two addresses of one byte are equal, so another address reads another byte. -/
theorem hostWriteStoresExactlyOneByte : Obligations.HostWriteStoresExactlyOneByte := by
  intro s a v ha
  obtain ⟨reg, off, hloc, hplain⟩ := locate_of_plainAddress ha
  obtain ⟨-, hoff⟩ := locate_eq_some_iff.mp hloc
  have hcmd : reg ≠ .cmd := by rintro rfl; cases hplain
  have hdin : reg ≠ .din := by rintro rfl; cases hplain
  refine ⟨s.writeReg off v reg, hostWrite_of_locate hloc hcmd hdin, ?same, ?others, writeReg_plain_frame s v hplain⟩
  case same => rw [readByte_of_locate hloc, regByte_writeReg_same s v hplain hoff]
  case others =>
    intro b hb
    cases hlocb : locate b.toNat with
    | none => rw [readByte_of_locate_none hlocb, readByte_of_locate_none hlocb]
    | some p =>
      obtain ⟨reg', off'⟩ := p
      obtain ⟨-, hoff'⟩ := locate_eq_some_iff.mp hlocb
      have hne : (reg', off') ≠ (reg, off) := fun h =>
        hb (BitVec.eq_of_toNat_eq (locate_injective (h ▸ hlocb) hloc))
      rw [readByte_of_locate hlocb, readByte_of_locate hlocb, regByte_writeReg_ne s v hplain hoff hoff' hne]

end Sys2Proof.Machine

namespace Sys2Proof

/-! ### What the decoder accepts (R90 to R94) -/

/-- The decoder accepts the pairs of bytes that commands are encoded as, and SRST's opcode with any ARG. -/
theorem decode_eq_ok_iff {op arg : Byte} {i : Instr} :
    decode op arg = .ok i ↔ op = i.op ∧ (arg = i.operand ∨ i = .srst) := by
  constructor
  · intro h
    unfold decode at h
    split at h
    case h_2 => -- format X: SRST
      cases h
      exact ⟨rfl, .inr rfl⟩
    case h_8 | h_17 | h_18 | h_21 | h_22 => -- format A: ADRK, XORB, CBLK, B64E, B64D
      cases h
      exact ⟨rfl, .inl rfl⟩
    case h_25 => cases h
    all_goals -- format Z
      obtain ⟨rfl, rfl⟩ := (formatZ_eq_ok ..).mp h
      exact ⟨rfl, .inl rfl⟩
  · rintro ⟨rfl, rfl | rfl⟩
    · cases i <;> rfl
    · rfl

/-- Settles O1: the parts of an encoded word are the opcode and the operand, and the decoder accepts no others. The
decoder checks no operand's range (R91), so reading back does not need the command to be well formed. -/
theorem decodeInvertsEncode : Obligations.DecodeInvertsEncode := by
  refine ⟨fun i _ => ?decodes, fun word i h => ?encodes⟩
  case decodes => simp [decodeWord, encode, decode_eq_ok_iff]
  case encodes =>
    obtain ⟨hop, harg | hsrst⟩ := decode_eq_ok_iff.mp h
    · left
      rw [encode, ← hop, ← harg, commandWord_parts]
    · subst hsrst
      exact .inr ⟨rfl, hop⟩

theorem legalWord_iff {op arg : Byte} :
    legalWord op arg = true ↔
      op ∈ formatZOps ∧ arg = 0 ∨ op = 0x01 ∨ op = 0x24 ∧ arg.toNat ≤ 14
        ∨ (op = 0x36 ∨ op = 0x37) ∧ 1 ≤ arg.toNat ∧ arg.toNat ≤ 16
        ∨ op = 0x40 ∧ 1 ≤ arg.toNat ∧ arg.toNat ≤ 3 ∨ op = 0x41 ∧ arg.toNat ≤ 1 := by
  simp only [legalWord, Bool.or_eq_true, Bool.and_eq_true, List.contains_iff_mem, beq_iff_eq, decide_eq_true_eq,
    or_assoc]

/-- Every opcode of format Z is some command's, and a command without an operand is well formed. -/
theorem exists_decode_of_mem_formatZOps : ∀ op ∈ formatZOps, ∃ i, decode op 0 = .ok i ∧ i.wf = true := by
  simp [formatZOps, decode, formatZ, Instr.wf]

theorem exists_decode_of_legalWord {op arg : Byte} (h : legalWord op arg = true) :
    ∃ i, decode op arg = .ok i ∧ i.wf = true := by
  rcases legalWord_iff.mp h with ⟨hz, rfl⟩ | rfl | ⟨rfl, hr⟩ | ⟨rfl | rfl, hr⟩ | ⟨rfl, hr⟩ | ⟨rfl, hr⟩
  · exact exists_decode_of_mem_formatZOps op hz
  · exact ⟨.srst, rfl, rfl⟩
  · exact ⟨.adrk arg, rfl, decide_eq_true hr⟩
  · exact ⟨.xorb arg, rfl, decide_eq_true hr⟩
  · exact ⟨.cblk arg, rfl, decide_eq_true hr⟩
  · exact ⟨.b64e arg, rfl, decide_eq_true hr⟩
  · exact ⟨.b64d arg, rfl, decide_eq_true hr⟩

theorem legalWord_of_wf (i : Instr) : i.wf = true → legalWord i.op i.operand = true := by
  cases i with
  | adrk round => exact Laws.EncodeLegal.adrk round
  | xorb k => exact Laws.EncodeLegal.xorb k
  | cblk k => exact Laws.EncodeLegal.cblk k
  | b64e k => exact Laws.EncodeLegal.b64e k
  | b64d f => exact Laws.EncodeLegal.b64d f
  | _ => exact fun _ => rfl

/-- Settles O2: each way a word can be legal names a command, and a command read from a word is read from its own
encoding or is SRST, whose opcode is legal with any ARG. -/
theorem legalWordsDecodeToWellFormedCommands : Obligations.LegalWordsDecodeToWellFormedCommands := by
  refine fun op arg => ⟨exists_decode_of_legalWord, ?_⟩
  rintro ⟨i, h, hwf⟩
  obtain ⟨rfl, rfl | rfl⟩ := decode_eq_ok_iff.mp h
  · exact legalWord_of_wf i hwf
  · exact legalWord_iff.mpr (.inr (.inl rfl))

/-- Settles O4: the decoder runs on each word of the table. -/
theorem specWordsDecode : Obligations.SpecWordsDecode := by
  unfold Obligations.SpecWordsDecode
  decide

end Sys2Proof

namespace Sys2Proof

open Machine

/-! ### The tables and the field (R113, R115)

The byte that R113 asks for is read off the printed table by undoing the affine map, so the inverse of a byte in the
field is never searched for: that the map is undone holds of every byte, and that the byte found is the field inverse
is one multiplication per entry. -/

/-- The affine map from which R113 constructs SBOX. -/
def affineMap (x : Byte) : Byte :=
  x ^^^ x.rotateLeft 1 ^^^ x.rotateLeft 2 ^^^ x.rotateLeft 3 ^^^ x.rotateLeft 4 ^^^ 0x63

/-- The inverse of R113's affine map. -/
def affineInverse (y : Byte) : Byte := y.rotateLeft 1 ^^^ y.rotateLeft 3 ^^^ y.rotateLeft 6 ^^^ 0x05

theorem affineMap_affineInverse : ∀ y : Byte, affineMap (affineInverse y) = y := by decide

theorem affineInverse_sbox_zero : affineInverse (sbox 0) = 0 := by decide

theorem gmul_affineInverse_sbox : ∀ a : Byte, a ≠ 0 → gmul a (affineInverse (sbox a)) = 1 := by decide

/-- R115: the powers of 2 in the field, one doubling per index. -/
theorem rcon_succ_eq_iterate_xtime : ∀ r : Nat, r < 10 → rcon (r + 1) = #v[xtime^[r] 0x01, 0, 0, 0] := by decide

/-- Settles O17: the field inverse of a byte is the preimage of its SBOX entry under the affine map. -/
theorem tablesFollowTheirDefinitions : Obligations.TablesFollowTheirDefinitions := by
  refine ⟨fun a => ⟨affineInverse (sbox a), ?inverse, (affineMap_affineInverse (sbox a)).symm⟩, rfl,
    rcon_succ_eq_iterate_xtime⟩
  case inverse =>
    split
    · next h => rw [h, affineInverse_sbox_zero]
    · next h => exact gmul_affineInverse_sbox a h

end Sys2Proof

namespace Sys2Proof.Machine

/-! ### The recurrence of the key schedule (R130)

The recurrence at an index speaks of words up to that index only, so it is read off at the turn of the loop that
appends the word and kept by every later turn. -/

/-- R130's recurrence at index `i`: word i-Nk XORed with what the previous word gives. -/
def Recurs (nk : Nat) (w : Schedule) (i : Nat) : Prop :=
  wordAt w i = xorWord (wordAt w (i - nk)) (scheduleTemp nk i (wordAt w (i - 1)))

theorem wordAt_of_prefix {w w' : Schedule} (h : w <+: w') {i : Nat} (hi : i < w.length) : wordAt w' i = wordAt w i := by
  obtain ⟨rest, rfl⟩ := h
  exact List.getD_append w rest zeroWord i hi

theorem Recurs.of_prefix {nk : Nat} {w w' : Schedule} {i : Nat} (hr : Recurs nk w i) (h : w <+: w')
    (hi : i < w.length) : Recurs nk w' i := by
  have hword : ∀ j ≤ i, wordAt w' j = wordAt w j := fun j hj => wordAt_of_prefix h (hj.trans_lt hi)
  rw [Recurs, hword i le_rfl, hword (i - nk) (i.sub_le nk), hword (i - 1) (i.sub_le 1)]
  exact hr

theorem recurs_expandStep {nk : Nat} {w : Schedule} (hnk : 0 < nk) (hw : nk ≤ w.length) :
    Recurs nk (expandStep nk w w.length) w.length := by
  have hold : ∀ j < w.length, wordAt (expandStep nk w w.length) j = wordAt w j := fun j hj =>
    wordAt_of_prefix (List.prefix_append w _) hj
  rw [Recurs, hold (w.length - nk) (by omega), hold (w.length - 1) (by omega)]
  simp [wordAt, expandStep]

theorem recurs_foldl_expandStep {nk i n : Nat} {w : Schedule} (hnk : 0 < nk) (hw : nk ≤ w.length)
    (hi : w.length ≤ i) (hn : i < w.length + n) :
    Recurs nk ((List.range' w.length n).foldl (expandStep nk) w) i := by
  induction n generalizing w with
  | zero => omega
  | succ n ih =>
    rw [List.range'_succ, List.foldl_cons]
    have hlen := length_expandStep nk w w.length
    rcases hi.eq_or_lt with rfl | hlt
    · exact (recurs_expandStep hnk hw).of_prefix (foldl_expandStep_prefix ..) (by omega)
    · have h := ih (w := expandStep nk w w.length) (by omega) (by omega) (by omega)
      rwa [hlen] at h

theorem recurs_expand {key : List Byte} {i : Nat} (hkey : 0 < key.length / 4) (hi : key.length / 4 ≤ i)
    (hlen : i < 4 * (key.length / 4 + 7)) : Recurs (key.length / 4) (expand key) i := by
  have h := recurs_foldl_expandStep (w := (List.range (key.length / 4)).map (keyWord key)) (i := i)
    (n := scheduleLength (key.length / 4) - key.length / 4) hkey (by simp) (by simpa using hi)
    (by simp [scheduleLength]; omega)
  simpa [expand] using h

theorem wordAt_expand_of_lt {key : List Byte} {i : Nat} (hi : i < key.length / 4) :
    wordAt (expand key) i = keyWord key i := by
  have hpre : (List.range (key.length / 4)).map (keyWord key) <+: expand key := take_expand key ▸ List.take_prefix _ _
  rw [wordAt_of_prefix hpre (by simpa using hi)]
  simp [wordAt, hi]

theorem byteAt_keyWord (key : List Byte) (i : Nat) {j : Nat} (hj : j < 4) :
    byteAt (keyWord key i) j = key.getD (4 * i + j) 0 := by
  interval_cases j <;> rfl

/-- Settles O18: the length, the key words and the recurrence of a schedule, at the three key lengths. -/
theorem expandSatisfiesTheRecurrence : Obligations.ExpandSatisfiesTheRecurrence := by
  intro nk key hnk hkey
  obtain rfl : nk = key.length / 4 := by omega
  refine ⟨length_expand key (by omega), fun i j hi hj => ?keyWords, fun i hi hlen => ?recurrence⟩
  case keyWords => rw [wordAt_expand_of_lt hi, byteAt_keyWord key i hj]
  case recurrence => exact recurs_expand (by omega) hi hlen

/-! ### KEXP (R131) -/

theorem exec_kexp_of_legal {s : State} (h : legalKeybits s.keybits = true) :
    exec .kexp s = .next (s.expandKey.complete 0) := if_pos h

theorem exec_kexp_of_illegal {s : State} (h : legalKeybits s.keybits = false) :
    exec .kexp s = .next (s.faultEntry .invalidKeySize 0x10 0x00) := if_neg (by simp [h])

theorem getElem_expandKey_w (s : State) (i : Nat) (hi : i < 60) :
    s.expandKey.w[i] = (expand (s.key.toList.take (s.keybits.toNat / 8))).getD i s.w[i] := by
  simp [State.keyLen, keyBytes, Vector.get_eq_getElem]

/-- The schedule that KEXP forms for a legal key size has `4·(Nr+1)` words (R15, R131). -/
theorem length_expand_take_key {s : State} (h : legalKeybits s.keybits = true) :
    (expand (s.key.toList.take (s.keybits.toNat / 8))).length = 4 * (s.keybits.toNat / 32 + 7) := by
  have hN := keyBytes_cases h
  rw [keyBytes] at hN
  have hkey : (s.key.toList.take (s.keybits.toNat / 8)).length = s.keybits.toNat / 8 := by simp; omega
  rw [length_expand _ (by omega), hkey]
  omega

theorem complete_expandKey_frame (s : State) :
    s.expandKey.complete 0 = { s with
      w := s.expandKey.w, ksz := s.expandKey.ksz, outlen := 0, done := true, busy := false, held := none } := by
  simp only [State.complete, State.expandKey, count64_zero]

/-- Settles O19: W below and above the length of the new schedule, KSZ at each legal key size, and the frame. -/
theorem kexpExpandsTheKey : Obligations.KexpExpandsTheKey := by
  refine ⟨rfl, fun s hlegal => ?legal, fun s h128 h192 h256 => exec_kexp_of_illegal ?illegal⟩
  case illegal => exact Bool.eq_false_iff.mpr fun h => (legalKeybits_cases h).elim h128 (·.elim h192 h256)
  have hlength := length_expand_take_key hlegal
  refine ⟨s.expandKey.complete 0, exec_kexp_of_legal hlegal, ?written, ?kept, ?nk4, ?nk6, ?nk8,
    complete_expandKey_frame s⟩
  case written =>
    intro i hi hlt
    have hin := hlt.trans_eq hlength.symm
    rw [State.complete_w, getElem_expandKey_w, wordAt, List.getD_eq_getElem _ _ hin, List.getD_eq_getElem _ _ hin]
  case kept =>
    intro i hi hge
    rw [State.complete_w, getElem_expandKey_w, List.getD_eq_default _ _ (hlength.trans_le hge)]
  case nk4 | nk6 | nk8 =>
    intro hk
    rw [State.complete_ksz, State.expandKey_ksz, State.keyLen, hk]
    rfl

end Sys2Proof.Machine

namespace Sys2Proof.Machine

/-! ### The micro-operations on S, each by itself (R141 to R146)

A micro-operation writes S and completes; what it leaves unchanged is said once. -/

theorem complete_withMat_frame (s : State) (m : Mat) :
    ({ s with mat := m } : State).complete 0 =
      { s with mat := m, outlen := 0, done := true, busy := false, held := none } := by
  simp only [State.complete, count64_zero]

/-- A command whose whole effect is to put `m` into S answers a state in which S has `m`'s properties and that is as
before outside S and the completion. -/
theorem exists_next_of_withMat {i : Instr} {s : State} {m : Mat} {P : Mat → Prop}
    (h : exec i s = .next (({ s with mat := m } : State).complete 0)) (hP : P m) :
    ∃ t, exec i s = .next t ∧ P t.mat
      ∧ t = { s with mat := t.mat, outlen := 0, done := true, busy := false, held := none } :=
  ⟨_, h, hP, complete_withMat_frame s m⟩

/-- Settles O20: the entries of the loaded matrix. -/
theorem ldstLoadsColumnMajor : Obligations.LdstLoadsColumnMajor :=
  ⟨rfl, fun s => exists_next_of_withMat (P := fun m => ∀ r c, cell m r c = s.blkin[r.val + 4 * c.val]) rfl
    (cell_loadMat s.blkin)⟩

theorem cell_subBytes (t : Mat) (r c : Fin 4) : cell (subBytes t) r c = sbox (cell t r c) := cell_matOf ..

/-- Settles O21: the entries of the substituted matrix. -/
theorem subbSubstitutesEveryByte : Obligations.SubbSubstitutesEveryByte :=
  ⟨rfl, fun s => exists_next_of_withMat (P := fun m => ∀ r c, cell m r c = sbox (cell s.mat r c)) rfl
    (cell_subBytes s.mat)⟩

theorem cell_shiftRows (t : Mat) (r c : Fin 4) :
    cell (shiftRows t) r c = cellMod t r.val ((c.val + r.val) % 4) := by
  have hrow : Fin.ofNat 4 r.val = r := Fin.ofNat_val_eq_self r
  have hcolumn : Fin.ofNat 4 ((c.val + r.val) % 4) = c + r := Fin.ofNat_val_eq_self (c + r)
  rw [shiftRows, cell_matOf, cellMod, hrow, hcolumn]

/-- Settles O22: the entries of the shifted matrix. -/
theorem shrwRotatesRowsLeft : Obligations.ShrwRotatesRowsLeft :=
  ⟨rfl, fun s => exists_next_of_withMat
    (P := fun m => ∀ r c : Fin 4, cell m r c = cellMod s.mat r.val ((c.val + r.val) % 4)) rfl (cell_shiftRows s.mat)⟩

theorem getElem_storeMat (t : Mat) (r c : Fin 4) : (storeMat t)[r.val + 4 * c.val] = cell t r c := by
  have hrow : Fin.ofNat 4 ((r.val + 4 * c.val) % 4) = r := Fin.ext (by simp [Fin.ofNat])
  have hcolumn : Fin.ofNat 4 ((r.val + 4 * c.val) / 4) = c := Fin.ext (by simp [Fin.ofNat]; omega)
  rw [storeMat, Vector.getElem_ofFn, cellMod, hrow, hcolumn]

theorem complete_storeS_frame (s : State) :
    s.storeS.complete 0 =
      { s with blkout := s.storeS.blkout, outlen := 0, done := true, busy := false, held := none } := by
  simp only [State.complete, State.storeS, count64_zero]

/-- Settles O25: the bytes of the serialized matrix. -/
theorem ststSerializesColumnMajor : Obligations.StstSerializesColumnMajor := by
  refine ⟨rfl, fun s => ⟨s.storeS.complete 0, rfl, fun r c => ?bytes, complete_storeS_frame s⟩⟩
  simp only [State.complete_blkout, State.storeS_blkout, getElem_storeMat]

/-! ### MIXC as multiplication by a matrix over the field (R144) -/

theorem gmul_two : ∀ a : Byte, gmul a 2 = xtime a := by decide

theorem gmul_three : ∀ a : Byte, gmul a 3 = xtime a ^^^ a := by decide

/-- The four formulas are the rows (2 3 1 1), (1 2 3 1), (1 1 2 3), (3 1 1 2), each row the one before turned by one
place. -/
theorem mixByte_eq_gmul (a : Fin 4 → Byte) (r : Fin 4) :
    mixByte a r = gmul (a r) 2 ^^^ gmul (a (r + 1)) 3 ^^^ a (r + 2) ^^^ a (r + 3) := by
  rw [gmul_two, gmul_three]
  match r with
  | 0 => simp only [mixByte, Fin.reduceAdd]; ac_rfl
  | 1 => simp only [mixByte, Fin.reduceAdd]; ac_rfl
  | 2 => simp only [mixByte, Fin.reduceAdd]; ac_rfl
  | 3 => simp only [mixByte, Fin.reduceAdd]; ac_rfl

theorem cell_mixColumns (t : Mat) (r c : Fin 4) : cell (mixColumns t) r c = mixByte (fun r' => cell t r' c) r :=
  cell_matOf ..

theorem cell_mixColumns_eq_gmul (t : Mat) (r c : Fin 4) :
    cell (mixColumns t) r c =
      gmul (cell t r c) 2 ^^^ gmul (cell t (r + 1) c) 3 ^^^ cell t (r + 2) c ^^^ cell t (r + 3) c := by
  rw [cell_mixColumns, mixByte_eq_gmul]

/-- Settles O23: the four formulas entry by entry, then the same as rows of the matrix. -/
theorem mixcMultipliesColumns : Obligations.MixcMultipliesColumns := by
  refine ⟨rfl, fun s => ⟨s.mixS.complete 0, rfl, fun c a b ha hb => ?formulas, cell_mixColumns_eq_gmul s.mat,
    complete_withMat_frame s _⟩⟩
  simp only [hb, ha, State.complete_mat, State.mixS_mat, cell_mixColumns, mixByte, and_self]

/-! ### ADRK (R145) -/

theorem encode_adrk : ∀ round : Byte, encode (.adrk round) = 0x2400 + round.setWidth 16 := by decide

theorem Ksz.nr_le (k : Ksz) : k.nr ≤ 14 := by cases k <;> decide

section Adrk

variable {round : Byte} {s : State}

theorem exec_adrk_of_outOfRange (h : 14 < round.toNat) :
    exec (.adrk round) s = .next (s.faultEntry .illegalCommand 0x24 round) :=
  if_neg (by simp [roundInRange, h])

theorem exec_adrk_of_inRange (h : round.toNat ≤ 14) :
    exec (.adrk round) s =
      if s.ksz = .empty ∨ round.toNat > s.ksz.nr then .next (s.faultEntry .sequenceError 0x24 round)
      else .next ((s.addKeyS round.toNat).complete 0) :=
  if_pos (decide_eq_true h)

theorem exec_adrk_of_noRoundKey (h : round.toNat ≤ 14) (hk : s.ksz = .empty ∨ s.ksz.nr < round.toNat) :
    exec (.adrk round) s = .next (s.faultEntry .sequenceError 0x24 round) := by
  rw [exec_adrk_of_inRange h, if_pos hk]

theorem exec_adrk_of_roundKey (hk : s.ksz ≠ .empty) (hr : round.toNat ≤ s.ksz.nr) :
    exec (.adrk round) s = .next ((s.addKeyS round.toNat).complete 0) := by
  rw [exec_adrk_of_inRange (hr.trans s.ksz.nr_le), if_neg (not_or.mpr ⟨hk, Nat.not_lt.mpr hr⟩)]

end Adrk

theorem cell_addRoundKey (t : Mat) (w : Schedule) (round : Nat) (r c : Fin 4) :
    cell (addRoundKey t w round) r c = cell t r c ^^^ (wordAt w (4 * round + c.val)).get r := cell_matOf ..

theorem wordAt_toList {n : Nat} (w : Vector Word n) {i : Nat} (h : i < n) : wordAt w.toList i = w[i] := by
  simp [wordAt, h]

/-- Settles O24: the operand check, then the schedule check, then the entries of the new S. -/
theorem adrkAddsTheRoundKey : Obligations.AdrkAddsTheRoundKey := by
  refine fun round s => ⟨encode_adrk round, exec_adrk_of_outOfRange, exec_adrk_of_noRoundKey, fun hk hr =>
    ⟨_, exec_adrk_of_roundKey hk hr, fun r c h => ?key, complete_withMat_frame s _⟩⟩
  rw [State.complete_mat, State.addKeyS_mat, cell_addRoundKey, wordAt_toList s.w h]

/-! ### ENCB (R147)

ENCB works with all of W and the Nr of KSZ, the function EncryptBlock with the first WLEN words and the Nr of their
number: the rounds look at words below 4·(Nr+1) = WLEN only. -/

theorem exec_encb_of_scheduled {s : State} (h : s.ksz ≠ .empty) : exec .encb s = .next (s.encipher.complete 0) :=
  if_neg h

theorem addRoundKey_take (t : Mat) (w : Schedule) {round n : Nat} (h : 4 * (round + 1) ≤ n) :
    addRoundKey t (w.take n) round = addRoundKey t w round := by
  refine mat_ext_cell fun r c => ?_
  have hi : 4 * round + c.val < n := by omega
  rw [cell_addRoundKey, cell_addRoundKey, wordAt, wordAt, List.getD_eq_getElem?_getD, List.getElem?_take_of_lt hi,
    List.getD_eq_getElem?_getD]

theorem cipherMat_take (nr : Nat) (w : Schedule) (b : Block) :
    cipherMat nr (w.take (4 * (nr + 1))) b = cipherMat nr w b := by
  have hmiddle : ∀ t : Mat, (List.range' 1 (nr - 1)).foldl (cipherRound (w.take (4 * (nr + 1)))) t =
      (List.range' 1 (nr - 1)).foldl (cipherRound w) t := fun t =>
    List.foldl_ext _ _ t fun m round hround => addRoundKey_take _ w (by
      have := List.mem_range'_1.mp hround
      omega)
  simp only [cipherMat, hmiddle, addRoundKey_take _ w (round := nr) le_rfl,
    addRoundKey_take _ w (round := 0) (n := 4 * (nr + 1)) (by omega)]

theorem Ksz.wlen_eq {k : Ksz} (h : k ≠ .empty) : k.wlen = 4 * (k.nr + 1) ∧ k.wlen ≤ 60 := by
  cases k with
  | empty => exact absurd rfl h
  | nk4 | nk6 | nk8 => decide

theorem encryptBlock_schedule {s : State} (h : s.ksz ≠ .empty) :
    encryptBlock s.blkin s.schedule = storeMat (cipherMat s.ksz.nr s.w.toList s.blkin) := by
  obtain ⟨hwlen, hle⟩ := Ksz.wlen_eq h
  have hlength : s.schedule.length / 4 - 1 = s.ksz.nr := by
    simp only [State.schedule, List.length_take, Vector.length_toList]
    omega
  rw [encryptBlock, hlength, State.schedule, hwlen, cipherMat_take]

theorem complete_encipher_frame (s : State) :
    s.encipher.complete 0 = { s with
      mat := s.encipher.mat, blkout := s.encipher.blkout, outlen := 0, done := true, busy := false, held := none } := by
  simp only [encipher_eq, State.complete, count64_zero]

/-- Settles O26: the block encryption of ENCB is that of the schedule, by `encryptBlock_schedule`. -/
theorem encbEncryptsTheBlock : Obligations.EncbEncryptsTheBlock := by
  refine ⟨rfl, fun s hk => ⟨_, exec_encb_of_scheduled hk, ?block, ?store, complete_encipher_frame s⟩,
    fun s hk => if_pos hk⟩
  case block => rw [State.complete_blkout, encipher_eq, encryptBlock_schedule hk]
  case store => rw [State.complete_mat, State.complete_blkout, encipher_eq]

/-! ### The rounds command by command (R147)

Every micro-operation completes as ENCB does once, at its end: a completion before another effect is not seen after
that effect's own completion. -/

theorem runCommands_cons_of_next {i : Instr} {s t : State} (rest : List Instr) (h : exec i s = .next t) :
    State.runCommands (i :: rest) s = State.runCommands rest t := by
  rw [State.runCommands, h]

theorem runCommands_append_of_next {xs : List Instr} {s t : State} (ys : List Instr)
    (h : State.runCommands xs s = .next t) : State.runCommands (xs ++ ys) s = State.runCommands ys t := by
  induction xs generalizing s with
  | nil => cases h; rfl
  | cons i xs ih =>
    obtain ⟨u, hu⟩ := exec_next i s
    rw [runCommands_cons_of_next _ hu] at h
    rw [List.cons_append, runCommands_cons_of_next _ hu, ih h]

theorem exec_adrk_complete {s : State} {round : Byte} (hk : s.ksz ≠ .empty) (hr : round.toNat ≤ s.ksz.nr) :
    exec (.adrk round) (s.complete 0) = .next ((s.addKeyS round.toNat).complete 0) :=
  exec_adrk_of_roundKey (s := s.complete 0) hk hr

/-- A round of the schedule fits ADRK's operand. -/
theorem exec_adrk_ofNat_complete {s : State} {round : Nat} (hk : s.ksz ≠ .empty) (hr : round ≤ s.ksz.nr) :
    exec (.adrk (BitVec.ofNat 8 round)) (s.complete 0) = .next ((s.addKeyS round).complete 0) := by
  have hnr := s.ksz.nr_le
  have hround : (BitVec.ofNat 8 round).toNat = round := Nat.mod_eq_of_lt (by omega)
  rw [exec_adrk_complete hk (hround.trans_le hr), hround]

theorem exec_ldst (s : State) : exec .ldst s = .next (s.loadS.complete 0) := rfl

theorem exec_subb_complete (s : State) : exec .subb (s.complete 0) = .next (s.subS.complete 0) := rfl

theorem exec_shrw_complete (s : State) : exec .shrw (s.complete 0) = .next (s.shiftS.complete 0) := rfl

theorem exec_mixc_complete (s : State) : exec .mixc (s.complete 0) = .next (s.mixS.complete 0) := rfl

theorem exec_stst_complete (s : State) : exec .stst (s.complete 0) = .next (s.storeS.complete 0) := rfl

section Rounds

variable {s : State} (hk : s.ksz ≠ .empty)

include hk

theorem runCommands_firstKey :
    State.runCommands [.ldst, .adrk 0] s = .next ((s.loadS.addKeyS 0).complete 0) := by
  rw [runCommands_cons_of_next _ (exec_ldst s),
    runCommands_cons_of_next _ (exec_adrk_complete (s := s.loadS) hk (Nat.zero_le _))]
  rfl

theorem runCommands_roundCommands {round : Nat} (hr : round ≤ s.ksz.nr) :
    State.runCommands (roundCommands round) (s.complete 0) = .next ((s.roundS round).complete 0) := by
  rw [roundCommands, runCommands_cons_of_next _ (exec_subb_complete s),
    runCommands_cons_of_next _ (exec_shrw_complete _), runCommands_cons_of_next _ (exec_mixc_complete _),
    runCommands_cons_of_next _ (exec_adrk_ofNat_complete (s := s.subS.shiftS.mixS) hk hr)]
  rfl

theorem runCommands_rounds {rounds : List Nat} (hr : ∀ round ∈ rounds, round ≤ s.ksz.nr) :
    State.runCommands (rounds.flatMap roundCommands) (s.complete 0) =
      .next ((rounds.foldl State.roundS s).complete 0) := by
  induction rounds generalizing s with
  | nil => rfl
  | cons round rounds ih =>
    obtain ⟨hround, hrounds⟩ := List.forall_mem_cons.mp hr
    rw [List.flatMap_cons, runCommands_append_of_next _ (runCommands_roundCommands hk hround), List.foldl_cons]
    exact ih hk hrounds

theorem runCommands_lastRound :
    State.runCommands [.subb, .shrw, .adrk (BitVec.ofNat 8 s.ksz.nr), .stst] (s.complete 0) =
      .next ((s.subS.shiftS.addKeyS s.ksz.nr).storeS.complete 0) := by
  rw [runCommands_cons_of_next _ (exec_subb_complete s), runCommands_cons_of_next _ (exec_shrw_complete _),
    runCommands_cons_of_next _ (exec_adrk_ofNat_complete (s := s.subS.shiftS) (round := s.ksz.nr) hk le_rfl),
    runCommands_cons_of_next _ (exec_stst_complete _), State.runCommands]

end Rounds

theorem foldl_roundS_ksz (rounds : List Nat) (s : State) : (rounds.foldl State.roundS s).ksz = s.ksz := by
  rw [foldl_roundS_eq]

/-- Settles O27: the three stretches of the host's sequence are the three of ENCB's effect. -/
theorem hostRoundSequenceEqualsEncb : Obligations.HostRoundSequenceEqualsEncb := by
  refine fun s hk => ⟨s.encipher.complete 0, ?sequence, exec_encb_of_scheduled hk⟩
  generalize hm : (List.range' 1 (s.ksz.nr - 1)).foldl State.roundS (s.loadS.addKeyS 0) = middle
  have hksz : middle.ksz = s.ksz := by rw [← hm, foldl_roundS_ksz]; rfl
  have hrounds : State.runCommands ((List.range' 1 (s.ksz.nr - 1)).flatMap roundCommands)
      ((s.loadS.addKeyS 0).complete 0) = .next (middle.complete 0) := by
    rw [← hm]
    refine runCommands_rounds (s := s.loadS.addKeyS 0) hk fun round hround => ?_
    have := List.mem_range'_1.mp hround
    rw [State.addKeyS_ksz, State.loadS_ksz]
    omega
  have hlast := runCommands_lastRound (s := middle) (hksz ▸ hk)
  rw [encbCommands, List.append_assoc, runCommands_append_of_next _ (runCommands_firstKey hk),
    runCommands_append_of_next _ hrounds, ← hksz, hlast, State.encipher, hm, hksz]

/-! ### The inverse matrix (R148)

Multiplication by a constant is additive in the other factor, so the product of the two matrices is formed entry by
entry; each entry is a fact about one byte. -/

/-- What `xtime` subtracts depends on the top bit only, and so is additive. -/
theorem reduction_xor (a b : Byte) :
    (if (a ^^^ b) &&& 0x80 = 0 then (0x00 : Byte) else 0x1B) =
      (if a &&& 0x80 = 0 then 0x00 else 0x1B) ^^^ (if b &&& 0x80 = 0 then 0x00 else 0x1B) := by
  have htop : ∀ x : Byte, x &&& 0x80 = 0 ∨ x &&& 0x80 = 0x80 := by decide
  have hand : (a ^^^ b) &&& 0x80 = (a &&& 0x80) ^^^ (b &&& 0x80) := by
    ext i
    simp only [BitVec.getElem_and, BitVec.getElem_xor, Bool.and_xor_distrib_right]
  rw [hand]
  rcases htop a with ha | ha <;> rcases htop b with hb | hb <;> rw [ha, hb] <;> rfl

theorem xtime_xor (a b : Byte) : xtime (a ^^^ b) = xtime a ^^^ xtime b := by
  rw [xtime, reduction_xor, BitVec.shiftLeft_xor_distrib, xtime, xtime]
  ac_rfl

theorem gmulStep_xor (b : Byte) (x y : Byte × Byte) (bit : Nat) :
    gmulStep b (x.1 ^^^ y.1, x.2 ^^^ y.2) bit =
      ((gmulStep b x bit).1 ^^^ (gmulStep b y bit).1, (gmulStep b x bit).2 ^^^ (gmulStep b y bit).2) := by
  simp only [gmulStep, xtime_xor]
  split
  · congr 1; ac_rfl
  · rfl

theorem foldl_gmulStep_xor (b : Byte) (bits : List Nat) (x y : Byte × Byte) :
    bits.foldl (gmulStep b) (x.1 ^^^ y.1, x.2 ^^^ y.2) =
      ((bits.foldl (gmulStep b) x).1 ^^^ (bits.foldl (gmulStep b) y).1,
        (bits.foldl (gmulStep b) x).2 ^^^ (bits.foldl (gmulStep b) y).2) := by
  induction bits generalizing x y with
  | nil => rfl
  | cons bit bits ih => rw [List.foldl_cons, gmulStep_xor, ih]; rfl

theorem gmul_xor (a a' b : Byte) : gmul (a ^^^ a') b = gmul a b ^^^ gmul a' b := by
  have h := congrArg Prod.fst (foldl_gmulStep_xor b (List.range 8) (0, a) (0, a'))
  rwa [BitVec.xor_self] at h

/-- The product of the two matrices is the identity: the four entries of its first row, from which the others differ
by turning. -/
theorem inverseRow_mul_matrix : ∀ a : Byte,
    gmul (gmul a 2) 0x0E ^^^ gmul a 0x0B ^^^ gmul a 0x0D ^^^ gmul (gmul a 3) 0x09 = a
    ∧ gmul (gmul a 3) 0x0E ^^^ gmul (gmul a 2) 0x0B ^^^ gmul a 0x0D ^^^ gmul a 0x09 = 0
    ∧ gmul a 0x0E ^^^ gmul (gmul a 3) 0x0B ^^^ gmul (gmul a 2) 0x0D ^^^ gmul a 0x09 = 0
    ∧ gmul a 0x0E ^^^ gmul a 0x0B ^^^ gmul (gmul a 3) 0x0D ^^^ gmul (gmul a 2) 0x09 = 0 := by
  decide +kernel

theorem fin_four_add_add : ∀ r : Fin 4,
    r + 1 + 1 = r + 2 ∧ r + 1 + 2 = r + 3 ∧ r + 1 + 3 = r ∧ r + 2 + 1 = r + 3 ∧ r + 2 + 2 = r ∧ r + 2 + 3 = r + 1
    ∧ r + 3 + 1 = r ∧ r + 3 + 2 = r + 1 ∧ r + 3 + 3 = r + 2 := by decide

/-- R148 (b). -/
theorem inverseMatrix_mixColumns (t : Mat) (r c : Fin 4) :
    gmul (cell (mixColumns t) r c) 0x0E ^^^ gmul (cell (mixColumns t) (r + 1) c) 0x0B
      ^^^ gmul (cell (mixColumns t) (r + 2) c) 0x0D ^^^ gmul (cell (mixColumns t) (r + 3) c) 0x09 = cell t r c := by
  simp only [cell_mixColumns_eq_gmul, gmul_xor, fin_four_add_add]
  generalize cell t r c = a0
  generalize cell t (r + 1) c = a1
  generalize cell t (r + 2) c = a2
  generalize cell t (r + 3) c = a3
  obtain ⟨h0, -, -, -⟩ := inverseRow_mul_matrix a0
  obtain ⟨-, h1, -, -⟩ := inverseRow_mul_matrix a1
  obtain ⟨-, -, h2, -⟩ := inverseRow_mul_matrix a2
  obtain ⟨-, -, -, h3⟩ := inverseRow_mul_matrix a3
  calc
    _ = (gmul (gmul a0 2) 0x0E ^^^ gmul a0 0x0B ^^^ gmul a0 0x0D ^^^ gmul (gmul a0 3) 0x09)
      ^^^ (gmul (gmul a1 3) 0x0E ^^^ gmul (gmul a1 2) 0x0B ^^^ gmul a1 0x0D ^^^ gmul a1 0x09)
      ^^^ (gmul a2 0x0E ^^^ gmul (gmul a2 3) 0x0B ^^^ gmul (gmul a2 2) 0x0D ^^^ gmul a2 0x09)
      ^^^ (gmul a3 0x0E ^^^ gmul a3 0x0B ^^^ gmul (gmul a3 3) 0x0D ^^^ gmul (gmul a3 2) 0x09) := by ac_rfl
    _ = a0 := by rw [h0, h1, h2, h3]; simp

/-- Settles O28: (a) by evaluation of the cipher, (b) by the product of the matrices. -/
theorem knownAnswersAndInverseMixColumns : Obligations.KnownAnswersAndInverseMixColumns :=
  ⟨by decide +kernel, by decide +kernel, by decide +kernel, inverseMatrix_mixColumns⟩

end Sys2Proof.Machine

namespace Sys2Proof.Machine

/-! ### Base64 decodes what it encodes (R205 to R207) -/

theorem b64Val_b64Chr : ∀ v : Byte, v.toNat < 64 → b64Val (b64Chr v) = some v := by decide

theorem b64Chr_ne_b64Pad : ∀ v : Byte, b64Chr v ≠ b64Pad := by decide

section Digits

variable {v0 v1 v2 v3 : Byte} (h0 : v0.toNat < 64) (h1 : v1.toNat < 64) (h2 : v2.toNat < 64)

include h0 h1

theorem decQ_two_digits (hzero : v1 &&& 15 = 0) :
    decQ (b64Chr v0) (b64Chr v1) b64Pad b64Pad true = some [decByte0 v0 v1] := by
  simpa [decQ, b64Val_b64Chr, h0, h1] using hzero

include h2

theorem decQ_three_digits (hzero : v2 &&& 3 = 0) :
    decQ (b64Chr v0) (b64Chr v1) (b64Chr v2) b64Pad true = some [decByte0 v0 v1, decByte1 v1 v2] := by
  simpa [decQ, b64Val_b64Chr, b64Chr_ne_b64Pad, h0, h1, h2] using hzero

theorem decQ_four_digits (h3 : v3.toNat < 64) (final : Bool) :
    decQ (b64Chr v0) (b64Chr v1) (b64Chr v2) (b64Chr v3) final =
      some [decByte0 v0 v1, decByte1 v1 v2, decByte2 v2 v3] := by
  simp [decQ, b64Val_b64Chr, b64Chr_ne_b64Pad, h0, h1, h2, h3]

end Digits

/-- A digit has six bits. -/
theorem digit_lt : ∀ {v : Byte}, v.getLsbD 6 = false → v.getLsbD 7 = false → v.toNat < 64 := by decide

theorem firstDigit_lt (x : Byte) : (x >>> 2).toNat < 64 := digit_lt (by simp) (by simp)

theorem secondDigit_lt (x y : Byte) : (((x &&& 3) <<< 4) ||| (y >>> 4)).toNat < 64 :=
  digit_lt (by simp) (by simp)

theorem thirdDigit_lt (x y : Byte) : (((x &&& 15) <<< 2) ||| (y >>> 6)).toNat < 64 :=
  digit_lt (by simp) (by simp)

theorem fourthDigit_lt (x : Byte) : (x &&& 63).toNat < 64 :=
  digit_lt (by simp) (by simp)

theorem decByte0_digits (x y : Byte) : decByte0 (x >>> 2) (((x &&& 3) <<< 4) ||| (y >>> 4)) = x := by
  apply BitVec.eq_of_getLsbD_eq
  intro i hi
  interval_cases i <;> simp [decByte0]

theorem decByte1_digits (x y z : Byte) :
    decByte1 (((x &&& 3) <<< 4) ||| (y >>> 4)) (((y &&& 15) <<< 2) ||| (z >>> 6)) = y := by
  apply BitVec.eq_of_getLsbD_eq
  intro i hi
  interval_cases i <;> simp [decByte1]

theorem decByte2_digits (y z : Byte) : decByte2 (((y &&& 15) <<< 2) ||| (z >>> 6)) (z &&& 63) = z := by
  apply BitVec.eq_of_getLsbD_eq
  intro i hi
  interval_cases i <;> simp [decByte2]

/-- A quantum of three bytes, and a shorter one at the end of the text, decodes to its bytes (R207). -/
theorem decHead_encQ_three (x0 x1 x2 : Byte) (final : Bool) :
    decHead final (encQ [x0, x1, x2]) = some [x0, x1, x2] := by
  rw [encQ, decHead, decQ_four_digits (firstDigit_lt x0) (secondDigit_lt x0 x1) (thirdDigit_lt x1 x2)
    (fourthDigit_lt x2), decByte0_digits, decByte1_digits, decByte2_digits]

theorem decHead_encQ_two (x0 x1 : Byte) : decHead true (encQ [x0, x1]) = some [x0, x1] := by
  have hthird : (x1 &&& 15) <<< 2 = ((x1 &&& 15) <<< 2) ||| ((0 : Byte) >>> 6) := by simp
  have hzero : (((x1 &&& 15) <<< 2) ||| ((0 : Byte) >>> 6)) &&& 3 = 0 := by
    apply BitVec.eq_of_getLsbD_eq
    intro i hi
    interval_cases i <;> simp
  rw [encQ, hthird, decHead, decQ_three_digits (firstDigit_lt x0) (secondDigit_lt x0 x1) (thirdDigit_lt x1 0) hzero,
    decByte0_digits, decByte1_digits]

theorem decHead_encQ_one (x0 : Byte) : decHead true (encQ [x0]) = some [x0] := by
  have hsecond : (x0 &&& 3) <<< 4 = ((x0 &&& 3) <<< 4) ||| ((0 : Byte) >>> 4) := by simp
  have hzero : (((x0 &&& 3) <<< 4) ||| ((0 : Byte) >>> 4)) &&& 15 = 0 := by
    apply BitVec.eq_of_getLsbD_eq
    intro i hi
    interval_cases i <;> simp
  rw [encQ, hsecond, decHead, decQ_two_digits (firstDigit_lt x0) (secondDigit_lt x0 0) hzero, decByte0_digits]

/-- The quantum at the head of a text is decoded first, as the final one if nothing follows (R206). -/
theorem b64Dec_append {q : List Byte} (hq : q.length = 4) (rest : List Byte) :
    b64Dec (q ++ rest) = (decHead rest.isEmpty q).bind fun x => (b64Dec rest).map (x ++ ·) := by
  match q, hq with
  | [c0, c1, c2, c3], _ =>
    simp only [List.cons_append, List.nil_append, b64Dec, decHead]
    cases decQ c0 c1 c2 c3 rest.isEmpty <;> cases b64Dec rest <;> rfl

/-- A text of one quantum: it is the final one. -/
theorem b64Dec_quantum {q x : List Byte} (hq : q.length = 4) (h : decHead true q = some x) : b64Dec q = some x := by
  have := b64Dec_append hq []
  simpa [h, b64Dec] using this

theorem b64Dec_b64Enc (x : List Byte) : b64Dec (b64Enc x) = some x := by
  induction x using b64Enc.induct with
  | case1 x0 x1 x2 rest ih =>
    rw [b64Enc, b64Dec_append (length_encQ (by simp)), decHead_encQ_three, ih]
    rfl
  | case2 x0 x1 => exact b64Dec_quantum (length_encQ (by simp)) (decHead_encQ_two x0 x1)
  | case3 x0 => exact b64Dec_quantum (length_encQ (by simp)) (decHead_encQ_one x0)
  | case4 => rfl

/-! ### The envelope and its ciphertext (R171) -/

theorem getElem?_ctrXor (w : Schedule) (n8 : Vector Byte 8) (x : List Byte) (i : Nat) :
    (ctrXor w n8 x)[i]? =
      x[i]?.map fun b => b ^^^ byteAt (keystream w n8 (BitVec.ofNat 64 (i / 16))) (i % 16) :=
  List.getElem?_mapIdx

/-- The keystream depends on the place only, so it is the same in both directions. -/
theorem ctrXor_ctrXor (w : Schedule) (n8 : Vector Byte 8) (x : List Byte) : ctrXor w n8 (ctrXor w n8 x) = x := by
  apply List.ext_getElem?
  intro i
  rw [getElem?_ctrXor, getElem?_ctrXor, Option.map_map]
  cases x[i]? with
  | none => rfl
  | some b => simp

theorem ctrXor_modify_xor (w : Schedule) (n8 : Vector Byte 8) (x : List Byte) (i : Nat) (d : Byte) :
    ctrXor w n8 (x.modify i (· ^^^ d)) = (ctrXor w n8 x).modify i (· ^^^ d) := by
  apply List.ext_getElem?
  intro j
  rw [getElem?_ctrXor, List.getElem?_modify, List.getElem?_modify, getElem?_ctrXor]
  cases x[j]? with
  | none => rfl
  | some b =>
    by_cases hij : i = j
    · simp [hij, BitVec.xor_assoc, BitVec.xor_comm d]
    · simp [hij]

theorem arrayOf_append {n : Nat} {x : List Byte} (h : x.length = n) (y : List Byte) :
    arrayOf n (x ++ y) = arrayOf n x := by
  apply Vector.ext
  intro i hi
  rw [getElem_arrayOf _ _ _ hi, getElem_arrayOf _ _ _ hi, List.getD_append _ _ _ _ (h ▸ hi)]

theorem arrayOf_toList {n : Nat} (v : Vector Byte n) : arrayOf n v.toList = v :=
  Vector.toList_inj.mp (toList_arrayOf n v.toList v.length_toList)

/-- Decrypt takes an envelope apart into the nonce and the ciphertext. -/
theorem decrypt_b64Enc {nonce : List Byte} (hn : nonce.length = 8) (x pw : List Byte) (keybits : BitVec 16) :
    decrypt (b64Enc (nonce ++ x)) pw keybits =
      if legalKeybits keybits then some (ctrXor (expand (deriveKey pw (keyBytes keybits))) (arrayOf 8 nonce) x)
      else none := by
  have hlen : ¬ (nonce ++ x).length < 8 := by simp [hn]
  simp only [decrypt, b64Dec_b64Enc, if_neg hlen, arrayOf_append hn, List.drop_left' hn]

/-- Settles O39: base64 gives the envelope back, and the same keystream is XORed twice. -/
theorem decryptInvertsEncrypt : Obligations.DecryptInvertsEncrypt := by
  intro pt pw keybits sec ms hlegal
  refine ⟨_, if_pos hlegal, ?_⟩
  rw [decrypt_b64Enc (nonceOf sec ms).length_toList, if_pos hlegal, arrayOf_toList, ctrXor_ctrXor]

/-- Settles O40: XORing a byte of the ciphertext commutes with XORing the keystream. -/
theorem ciphertextByteFlipsOnlyItsPlaintextByte : Obligations.CiphertextByteFlipsOnlyItsPlaintextByte := by
  intro nonce x pw plain keybits i d hn h
  rw [decrypt_b64Enc hn] at h ⊢
  split at h
  next hlegal =>
    cases h
    rw [if_pos hlegal, ctrXor_modify_xor]
  next => cases h

end Sys2Proof.Machine

namespace Sys2Proof.Machine

/-! ### The bytes of the nonce and of the counter block (R68, R69) -/

/-- The bytes of a number are those of the number in a wider or narrower register that still holds them. -/
theorem extractLsb'_setWidth_eight {n w i : Nat} (v : BitVec n) (h : i + 8 ≤ w) :
    (v.setWidth w).extractLsb' i 8 = v.extractLsb' i 8 := by
  apply BitVec.eq_of_getLsbD_eq
  intro j hj
  have hw : i + j < w := by omega
  simp [hj, hw]

theorem be32_setWidth {n : Nat} (v : BitVec n) :
    be32 (v.setWidth 32) = [v.extractLsb' 24 8, v.extractLsb' 16 8, v.extractLsb' 8 8, v.extractLsb' 0 8] := by
  rw [be32, extractLsb'_setWidth_eight v (by decide), extractLsb'_setWidth_eight v (by decide),
    extractLsb'_setWidth_eight v (by decide), extractLsb'_setWidth_eight v (by decide)]

/-- The milliseconds have ten bits: two of the bytes that would hold 32 are zero, one holds two bits. -/
theorem extractLsb'_ms (ms : BitVec 10) :
    ms.extractLsb' 24 8 = 0 ∧ ms.extractLsb' 16 8 = 0 ∧ ms.extractLsb' 8 8 = (ms.extractLsb' 8 2).setWidth 8 := by
  refine ⟨?_, ?_, ?_⟩ <;> apply BitVec.eq_of_getLsbD_eq <;> intro j hj
  · simp [BitVec.getLsbD_of_ge ms (24 + j) (by omega)]
  · simp [BitVec.getLsbD_of_ge ms (16 + j) (by omega)]
  · by_cases h : j < 2
    · simp [hj, h]
    · simp [h, BitVec.getLsbD_of_ge ms (8 + j) (by omega)]

theorem nonceOf_eq (sec : BitVec 64) (ms : BitVec 10) :
    nonceOf sec ms = #v[sec.extractLsb' 24 8, sec.extractLsb' 16 8, sec.extractLsb' 8 8, sec.extractLsb' 0 8, 0, 0,
      (ms.extractLsb' 8 2).setWidth 8, ms.extractLsb' 0 8] := by
  obtain ⟨h24, h16, h8⟩ := extractLsb'_ms ms
  apply Vector.toList_inj.mp
  rw [nonceOf, toList_arrayOf 8 _ rfl, low32, be32_setWidth, be32_setWidth, h24, h16, h8]
  rfl

theorem be32_high32 (v : BitVec 64) :
    be32 (high32 v) = [v.extractLsb' 56 8, v.extractLsb' 48 8, v.extractLsb' 40 8, v.extractLsb' 32 8] := by
  have hshift : ∀ i, (v >>> 32).extractLsb' i 8 = v.extractLsb' (32 + i) 8 := fun i => by
    apply BitVec.eq_of_getLsbD_eq
    intro j hj
    simp [hj, Nat.add_assoc]
  rw [high32, be32_setWidth, hshift, hshift, hshift, hshift]

theorem counterBlock_eq (n8 : Vector Byte 8) (b : BitVec 64) :
    counterBlock n8 b = arrayOf 16 (n8.toList ++ (List.range 8).map fun i => b.extractLsb' (56 - 8 * i) 8) := by
  rw [counterBlock, be32_high32, low32, be32_setWidth]
  rfl

/-- The bytes of a counter block (R69, R166). -/
theorem getElem_counterBlock (n8 : Vector Byte 8) (b : BitVec 64) {i : Nat} (hi : i < 8) :
    (counterBlock n8 b)[i] = n8[i] ∧ (counterBlock n8 b)[8 + i] = b.extractLsb' (56 - 8 * i) 8 := by
  rw [counterBlock_eq, getElem_arrayOf, getElem_arrayOf]
  constructor
  · rw [List.getD_append _ _ _ _ (by simpa using hi)]
    simp [hi]
  · rw [List.getD_append_right _ _ _ _ (by simp)]
    simp [hi]

/-! ### The nonce commands and the counter block (R163 to R166) -/

theorem exec_gnnc (s : State) : exec .gnnc s = .next (s.genNonce.complete 0) := rfl

/-- Settles O31: the bytes of the nonce, and the frame of the sample. -/
theorem gnncLoadsTheClockNonce : Obligations.GnncLoadsTheClockNonce := by
  refine ⟨rfl, fun s => ⟨s.genNonce.complete 0, exec_gnnc s, ?nonce, ?frame⟩⟩
  case nonce => rw [State.complete_nonce, State.genNonce_nonce, nonceOf_eq]
  case frame => simp only [State.complete, State.genNonce, State.countSample, count64_zero]

theorem exec_ldnc_of_ready {s : State} (h : 8 ≤ s.din.length) :
    exec .ldnc s = .next (((s.dropIn 8).loadNonce (s.peekIn 8)).complete 0) := if_pos h

theorem exec_ldnc_of_short {s : State} (h : s.din.length < 8) : exec .ldnc s = .next (s.enterHold .ldnc) :=
  if_neg (Nat.not_le.mpr h)

/-- Settles O32: the eight bytes present, then the hold. -/
theorem ldncLoadsTheNonceFromDin : Obligations.LdncLoadsTheNonceFromDin := by
  refine ⟨rfl, fun s h => ⟨_, exec_ldnc_of_ready h, ?nonce, ?frame⟩, fun s h => exec_ldnc_of_short h⟩
  case nonce => rw [State.complete_nonce, State.loadNonce_nonce, toList_arrayOf 8 _ (length_peekIn h), State.peekIn]
  case frame => simp only [State.complete, State.loadNonce, State.dropIn, count64_zero]

theorem exec_emnc_of_nonce {s : State} (h : s.nv = true) :
    exec .emnc s = .next ((s.pushOut s.nonce.toList).complete 8) := if_pos h

/-- Settles O33: with a nonce its bytes are pushed, without one the check fails. -/
theorem emncPushesTheNonce : Obligations.EmncPushesTheNonce :=
  ⟨rfl, fun s h => exec_emnc_of_nonce h, fun s h => if_neg (by simp [h])⟩

theorem exec_ctrb_of_nonce {s : State} (h : s.nv = true) : exec .ctrb s = .next (s.buildCounter.complete 0) := if_pos h

/-- Settles O34: the bytes of the counter block. -/
theorem ctrbBuildsTheCounterBlock : Obligations.CtrbBuildsTheCounterBlock := by
  refine ⟨rfl, fun s h => ⟨_, exec_ctrb_of_nonce h, fun i hi => ?bytes, ?frame⟩,
    fun s h => if_neg (by simp [h])⟩
  case bytes => simp only [State.complete_blkin, State.buildCounter_blkin, getElem_counterBlock _ _ hi, and_self]
  case frame => simp only [State.complete, State.buildCounter, count64_zero]

/-! ### One block by hand: XORB and CBLK (R167, R168) -/

theorem encode_xorb : ∀ k : Byte, encode (.xorb k) = 0x3600 + k.setWidth 16 := by decide

theorem encode_cblk : ∀ k : Byte, encode (.cblk k) = 0x3700 + k.setWidth 16 := by decide

theorem blockLenInRange_iff {k : Byte} : blockLenInRange k = true ↔ 1 ≤ k.toNat ∧ k.toNat ≤ 16 :=
  decide_eq_true_iff

theorem not_blockLenInRange {k : Byte} (h : k.toNat < 1 ∨ 16 < k.toNat) : ¬ blockLenInRange k = true := by
  rw [blockLenInRange_iff]
  omega

theorem count64_toNat_byte (k : Byte) : count64 k.toNat = k.setWidth 64 := by
  rw [count64_of_lt (by omega)]
  exact BitVec.eq_of_toNat_eq (by simp)

theorem getD_xorBytes {x y : List Byte} {j : Nat} (hx : j < x.length) (hy : j < y.length) :
    (xorBytes x y).getD j 0 = x.getD j 0 ^^^ y.getD j 0 := by
  simp [xorBytes, hx, hy]

section XorBlock

variable {s : State} {k : Nat} (hk : k ≤ 16) (hd : k ≤ s.din.length) (b : Block)

include hk hd

theorem length_xorBytes_peekIn : (xorBytes (s.peekIn k) b.toList).length = k := by
  rw [length_xorBytes, length_peekIn hd, Vector.length_toList, Nat.min_eq_left hk]

theorem getD_xorBytes_peekIn {j : Nat} (hj : j < k) :
    (xorBytes (s.peekIn k) b.toList).getD j 0 = s.din.getD j 0 ^^^ byteAt b j := by
  have hblock : j < b.toList.length := by rw [Vector.length_toList]; omega
  rw [getD_xorBytes (by rwa [length_peekIn hd]) hblock, byteAt]
  simp only [State.peekIn, List.getD_eq_getElem?_getD, List.getElem?_take_of_lt hj]

end XorBlock

section Commands

variable {s : State} {k : Byte} (h1 : 1 ≤ k.toNat) (h16 : k.toNat ≤ 16)

include h1 h16

theorem exec_xorb_of_inRange :
    exec (.xorb k) s = s.holdUntil k.toNat (.xorb k) fun s => .next ((s.xorBlock k.toNat).complete k.toNat) :=
  if_pos (blockLenInRange_iff.mpr ⟨h1, h16⟩)

theorem exec_xorb_of_short (hd : s.din.length < k.toNat) : exec (.xorb k) s = .next (s.enterHold (.xorb k)) := by
  rw [exec_xorb_of_inRange h1 h16, holdUntil_waits hd]

theorem exec_xorb_of_ready (hd : k.toNat ≤ s.din.length) :
    exec (.xorb k) s = .next ((s.xorBlock k.toNat).complete k.toNat) := by
  rw [exec_xorb_of_inRange h1 h16, holdUntil_ready hd]

theorem exec_cblk_of_inRange :
    exec (.cblk k) s =
      if s.nv = false ∨ s.ksz = .empty then .next (s.faultEntry .sequenceError 0x37 k)
      else s.holdUntil k.toNat (.cblk k) fun s =>
        .next ((s.buildCounter.encipher.xorBlock k.toNat).complete k.toNat) :=
  if_pos (blockLenInRange_iff.mpr ⟨h1, h16⟩)

theorem exec_cblk_of_unprepared (h : s.nv = false ∨ s.ksz = .empty) :
    exec (.cblk k) s = .next (s.faultEntry .sequenceError 0x37 k) := by
  rw [exec_cblk_of_inRange h1 h16, if_pos h]

theorem exec_cblk_of_prepared (hnv : s.nv = true) (hk : s.ksz ≠ .empty) :
    exec (.cblk k) s = s.holdUntil k.toNat (.cblk k) fun s =>
      .next ((s.buildCounter.encipher.xorBlock k.toNat).complete k.toNat) := by
  rw [exec_cblk_of_inRange h1 h16, if_neg (by simp [hnv, hk])]

end Commands

/-- Settles O35: the range, the hold, and the bytes of the block. -/
theorem xorbXorsOneBlock : Obligations.XorbXorsOneBlock := by
  refine fun k s => ⟨encode_xorb k, fun h => if_neg (not_blockLenInRange h), exec_xorb_of_short, fun h1 h16 hd =>
    ⟨_, _, exec_xorb_of_ready h1 h16 hd, length_xorBytes_peekIn h16 hd s.blkout,
      fun j hj => getD_xorBytes_peekIn h16 hd s.blkout hj, ?frame⟩⟩
  simp only [State.complete, State.xorBlock, State.nextCounter, State.pushOut, State.dropIn, count64_toNat_byte]

theorem encipher_blkout {s : State} (h : s.ksz ≠ .empty) : s.encipher.blkout = encryptBlock s.blkin s.schedule := by
  rw [encipher_eq, encryptBlock_schedule h]

theorem storeMat_encipher_mat (s : State) : storeMat s.encipher.mat = s.encipher.blkout := by rw [encipher_eq]

/-- CTRB and ENCB leave the keystream block of the counter in BLKOUT (R160, R168). -/
theorem buildCounter_encipher_blkout {s : State} (h : s.ksz ≠ .empty) :
    s.buildCounter.encipher.blkout = keystream s.schedule s.nonce s.ctr := by
  rw [encipher_blkout (by simpa using h), State.buildCounter_blkin, keystream, State.schedule, State.schedule,
    State.buildCounter_w, State.buildCounter_ksz]

theorem buildCounter_encipher_frame (s : State) :
    s.buildCounter.encipher = { s with
      blkin := counterBlock s.nonce s.ctr, mat := s.buildCounter.encipher.mat
      blkout := s.buildCounter.encipher.blkout } := by
  simp only [encipher_eq, State.buildCounter]

/-- Settles O36: the checks and the hold, then the keystream block and the bytes XORed with it. -/
theorem cblkProcessesOneBlock : Obligations.CblkProcessesOneBlock := by
  refine fun k s => ⟨encode_cblk k, fun h => if_neg (not_blockLenInRange h), exec_cblk_of_unprepared,
    fun h1 h16 hnv hk hd => (exec_cblk_of_prepared h1 h16 hnv hk).trans (holdUntil_waits hd),
    fun h1 h16 hnv hk hd => ?effect⟩
  have hframe := buildCounter_encipher_frame s
  have hstream := buildCounter_encipher_blkout hk
  have hstore := storeMat_encipher_mat s.buildCounter
  have hexec := (exec_cblk_of_prepared h1 h16 hnv hk).trans (holdUntil_ready hd)
  generalize s.buildCounter.encipher = u at hframe hstream hstore hexec
  have hdin : u.din = s.din := by rw [hframe]
  refine ⟨_, _, hexec, by rw [hframe]; rfl, hstream, hstore, length_xorBytes_peekIn h16 (hdin ▸ hd) u.blkout,
    fun j hj => hdin ▸ getD_xorBytes_peekIn h16 (hdin ▸ hd) u.blkout hj, ?frame⟩
  rw [hframe]
  simp only [State.complete, State.xorBlock, State.nextCounter, State.pushOut, State.dropIn, count64_toNat_byte]

end Sys2Proof.Machine

namespace Sys2Proof.Machine

/-! ### The password block (R160, R161) -/

/-- The bytes of PW the host has marked as the password, `PW[0:PWLEN]` (R22). -/
def State.password (s : State) : List Byte := s.pw.toList.take s.pwlen.toNat

/-- The password block of `s`, `PwBlock(PW[0:PWLEN], N)` (R160). -/
def State.passwordBlock (s : State) : List Byte := pwBlock s.password s.keyLen

theorem keyLen_le {s : State} (h : legalKeybits s.keybits = true) : 16 ≤ s.keyLen ∧ s.keyLen ≤ 32 := by
  have := keyBytes_cases h
  rw [State.keyLen]
  omega

theorem getElem_formPwBlock_key (s : State) {i : Nat} (hi : i < 32) :
    s.formPwBlock.key[i] = if i < s.keyLen ∧ i < s.pwlen.toNat then s.pw[i] else 0 := by
  simp [Vector.get_eq_getElem]

theorem take_formPwBlock_key {s : State} (h : s.keyLen ≤ 32) :
    s.formPwBlock.key.toList.take s.keyLen = s.passwordBlock := by
  apply List.ext_getElem
  · simp [State.passwordBlock, pwBlock, h]
  · intro i hi _
    have hi : i < s.keyLen ∧ i < 32 := by simpa using hi
    have hbyte := getElem_formPwBlock_key s hi.2
    by_cases hp : i < s.pwlen.toNat
    · simp [State.passwordBlock, State.password, pwBlock, hi, hp, Vector.get_eq_getElem]
    · simp [State.passwordBlock, State.password, pwBlock, hi, hp]

theorem exec_pwbk_of_legal {s : State} (h : legalKeybits s.keybits = true) :
    exec .pwbk s = .next (s.formPwBlock.complete 0) := if_pos h

/-- Settles O29: the bytes of KEY, as one sequence the password block. -/
theorem pwbkFormsThePasswordBlock : Obligations.PwbkFormsThePasswordBlock := by
  refine ⟨rfl, fun s h => ⟨_, exec_pwbk_of_legal h, fun i hi => getElem_formPwBlock_key s hi,
    take_formPwBlock_key (keyLen_le h).2, ?frame⟩, fun s h => if_neg (by simp [h])⟩
  simp only [State.complete, State.formPwBlock, count64_zero]

/-! ### DRVK (R162)

DRVK expands the password block, encrypts its first 16 bytes, and expands the key made of them. -/

theorem keyLen_div_four (s : State) : s.keyLen / 4 = s.keybits.toNat / 32 := Nat.div_div_eq_div_mul ..

theorem schedule_expandKey {s : State} (h : legalKeybits s.keybits = true) :
    s.expandKey.schedule = expand (s.key.toList.take s.keyLen) := by
  obtain ⟨-, -, hwlen⟩ := kszOf_keyBytes h
  have hlen : (expand (s.key.toList.take s.keyLen)).length = 4 * (s.keyLen / 4 + 7) :=
    keyLen_div_four s ▸ length_expand_take_key h
  have hprefix := toList_ofFn_getD_prefix (expand (s.key.toList.take s.keyLen)) s.w
    (by have := (keyLen_le h).2; omega)
  rw [State.schedule, State.expandKey_w, State.expandKey_ksz, State.keyLen, hwlen, ← State.keyLen, ← hlen]
  exact (List.prefix_iff_eq_take.mp hprefix).symm

theorem getElem_expandKey_w_of_ge {s : State} (h : legalKeybits s.keybits = true) {i : Nat} (hi : i < 60)
    (hge : 4 * (s.keybits.toNat / 32 + 7) ≤ i) : s.expandKey.w[i] = s.w[i] := by
  rw [getElem_expandKey_w, List.getD_eq_default _ _ ((length_expand_take_key h).trans_le hge)]

theorem arrayOf_take {n m : Nat} (h : n ≤ m) (x : List Byte) : arrayOf n (x.take m) = arrayOf n x := by
  apply Vector.ext
  intro i hi
  simp only [getElem_arrayOf _ _ _ hi, List.getD_eq_getElem?_getD, List.getElem?_take_of_lt (hi.trans_le h)]

/-- DRVK up to the encryption of the first block of the password block. -/
def State.encryptPassword (s : State) : State := s.formPwBlock.expandKey.keyToBlkin.encipher

theorem deriveKey_eq (s : State) : s.deriveKey = s.encryptPassword.blkoutToKey.expandKey := rfl

/-- The first block of the password block encrypted under the schedule of the whole, the `c` of R160. -/
def State.passwordCipher (s : State) : Block :=
  encryptBlock (arrayOf 16 (s.passwordBlock.take 16)) (expand s.passwordBlock)

section EncryptPassword

variable (s : State)

theorem encryptPassword_keybits : s.encryptPassword.keybits = s.keybits := by
  rw [State.encryptPassword, encipher_eq]
  simp

theorem encryptPassword_w : s.encryptPassword.w = s.formPwBlock.expandKey.w := by
  rw [State.encryptPassword, encipher_eq]
  simp

theorem storeMat_encryptPassword_mat : storeMat s.encryptPassword.mat = s.encryptPassword.blkout :=
  storeMat_encipher_mat _

variable {s} (h : legalKeybits s.keybits = true)

include h

theorem keyToBlkin_blkin_formPwBlock :
    s.formPwBlock.expandKey.keyToBlkin.blkin = arrayOf 16 (s.passwordBlock.take 16) := by
  obtain ⟨h16, h32⟩ := keyLen_le h
  rw [State.keyToBlkin_blkin, State.expandKey_key, ← take_formPwBlock_key h32, arrayOf_take le_rfl, arrayOf_take h16]

theorem encryptPassword_blkin : s.encryptPassword.blkin = arrayOf 16 (s.passwordBlock.take 16) := by
  rw [← keyToBlkin_blkin_formPwBlock h, State.encryptPassword, encipher_eq]

theorem encryptPassword_blkout : s.encryptPassword.blkout = s.passwordCipher := by
  have hlegal : legalKeybits s.formPwBlock.keybits = true := by rwa [State.formPwBlock_keybits]
  have hkeyLen : s.formPwBlock.keyLen = s.keyLen := by rw [State.keyLen, State.formPwBlock_keybits, State.keyLen]
  have hksz : s.formPwBlock.expandKey.keyToBlkin.ksz ≠ .empty := by
    rw [State.keyToBlkin_ksz]
    exact (expandKey_holdsSchedule _ hlegal).1
  have hsched : s.formPwBlock.expandKey.keyToBlkin.schedule = expand s.passwordBlock := by
    rw [State.schedule, State.keyToBlkin_w, State.keyToBlkin_ksz, ← State.schedule, schedule_expandKey hlegal,
      hkeyLen, take_formPwBlock_key (keyLen_le h).2]
  rw [State.encryptPassword, encipher_blkout hksz, keyToBlkin_blkin_formPwBlock h, hsched, State.passwordCipher]

end EncryptPassword

theorem getElem_blkoutToKey_key (s : State) {i : Nat} (hi : i < 32) :
    s.blkoutToKey.key[i] = if i < s.keyLen then byteAt s.blkout (i % 16) else 0 := by
  simp

/-- The key is the block, extended by its own head to N bytes (R160, D12). -/
theorem take_blkoutToKey_key {s : State} (h : legalKeybits s.keybits = true) :
    s.blkoutToKey.key.toList.take s.keyLen = s.blkout.toList ++ s.blkout.toList.take (s.keyLen - 16) := by
  obtain ⟨h16, h32⟩ := keyLen_le h
  apply List.ext_getElem
  · simp; omega
  · intro i hi _
    have hi : i < s.keyLen ∧ i < 32 := by simpa using hi
    have hbyte := getElem_blkoutToKey_key s hi.2
    rw [if_pos hi.1, byteAt_of_lt _ _ (Nat.mod_lt i (by decide))] at hbyte
    rcases Nat.lt_or_ge i 16 with hlt | hge
    · simpa [hlt, Nat.mod_eq_of_lt hlt] using hbyte
    · have hmod : i % 16 = i - 16 := by omega
      simpa [List.getElem_append_right, hge, hmod] using hbyte

/-- What DRVK leaves in KEY, W and KSZ for the password `pw`, when W held `w` before (R162). -/
structure KeyDerived (pw : List Byte) (keybits : BitVec 16) (w : Vector Word 60) (u : State) : Prop where
  key : u.key.toList.take (keyBytes keybits) = deriveKey pw (keyBytes keybits)
  keyRest : ∀ (i : Nat) (h : i < 32), keyBytes keybits ≤ i → u.key[i] = 0
  nk : u.ksz.nk = keybits.toNat / 32
  schedule : u.schedule = expand (deriveKey pw (keyBytes keybits))
  wRest : ∀ (i : Nat) (h : i < 60), 4 * (keybits.toNat / 32 + 7) ≤ i → u.w[i] = w[i]

section DeriveKey

variable {s : State} (h : legalKeybits s.keybits = true)

theorem deriveKey_mat (s : State) : s.deriveKey.mat = s.encryptPassword.mat := by
  rw [deriveKey_eq, State.expandKey_mat, State.blkoutToKey_mat]

theorem deriveKey_blkout (s : State) : s.deriveKey.blkout = s.encryptPassword.blkout := by
  rw [deriveKey_eq, State.expandKey_blkout, State.blkoutToKey_blkout]

theorem storeMat_deriveKey_mat (s : State) : storeMat s.deriveKey.mat = s.deriveKey.blkout := by
  rw [deriveKey_mat, deriveKey_blkout, storeMat_encryptPassword_mat]

include h

theorem deriveKey_blkin : s.deriveKey.blkin = arrayOf 16 (s.passwordBlock.take 16) := by
  rw [deriveKey_eq, State.expandKey_blkin, State.blkoutToKey_blkin, encryptPassword_blkin h]

theorem keyDerived_deriveKey : KeyDerived s.password s.keybits s.w s.deriveKey := by
  have hlegal : legalKeybits s.encryptPassword.keybits = true := by rwa [encryptPassword_keybits]
  have hlegal' : legalKeybits s.encryptPassword.blkoutToKey.keybits = true := by rwa [State.blkoutToKey_keybits]
  have hkeyLen : s.encryptPassword.keyLen = s.keyLen := by rw [State.keyLen, encryptPassword_keybits, State.keyLen]
  have hkeyLen' : s.encryptPassword.blkoutToKey.keyLen = s.keyLen := by
    rw [← hkeyLen, State.keyLen, State.blkoutToKey_keybits, State.keyLen]
  have hkey : s.encryptPassword.blkoutToKey.key.toList.take s.keyLen = deriveKey s.password s.keyLen := by
    rw [← hkeyLen, take_blkoutToKey_key hlegal, encryptPassword_blkout h, hkeyLen]
    rfl
  rw [deriveKey_eq]
  constructor
  case key => rwa [State.expandKey_key]
  case keyRest =>
    intro i hi hge
    simp only [State.expandKey_key]
    rw [getElem_blkoutToKey_key _ hi, hkeyLen, State.keyLen, if_neg (Nat.not_lt.mpr hge)]
  case nk =>
    obtain ⟨-, hnk, -⟩ := kszOf_keyBytes h
    rw [State.expandKey_ksz, hkeyLen', State.keyLen, hnk, ← State.keyLen, keyLen_div_four]
  case schedule => rw [schedule_expandKey hlegal', hkeyLen', hkey, State.keyLen]
  case wRest =>
    intro i hi hge
    rw [getElem_expandKey_w_of_ge hlegal' hi (by rwa [State.blkoutToKey_keybits, encryptPassword_keybits])]
    simp only [State.blkoutToKey_w, encryptPassword_w]
    rw [getElem_expandKey_w_of_ge (by rwa [State.formPwBlock_keybits]) hi (by rwa [State.formPwBlock_keybits])]
    simp only [State.formPwBlock_w]

end DeriveKey

theorem exec_drvk_of_legal {s : State} (h : legalKeybits s.keybits = true) :
    exec .drvk s = .next (s.deriveKey.complete 0) := if_pos h

/-- Settles O30: KEY, W and KSZ are those of `KeyDerived`, the block registers those of the encrypted password block. -/
theorem drvkDerivesAndExpandsTheKey : Obligations.DrvkDerivesAndExpandsTheKey := by
  refine ⟨rfl, fun s h => ?legal, fun s h => if_neg (by simp [h])⟩
  have hkey := keyDerived_deriveKey h
  have hblkin := deriveKey_blkin h
  have hblkout : s.deriveKey.blkout = s.passwordCipher := (deriveKey_blkout s).trans (encryptPassword_blkout h)
  have hstore := (storeMat_deriveKey_mat s).trans hblkout
  have hexec := exec_drvk_of_legal h
  obtain ⟨k, w, z, bi, m, bo, hframe⟩ := deriveKey_frame s
  generalize s.deriveKey = u at *
  refine ⟨u.complete 0, s.passwordBlock, s.passwordCipher, hexec, rfl, rfl, hkey.key, hkey.keyRest, ?schedule,
    hkey.wRest, hkey.nk, hblkin, hblkout, hstore, ?frame⟩
  case schedule => exact hkey.schedule.trans (congrArg expand hkey.key.symm)
  case frame =>
    subst hframe
    simp only [State.complete, count64_zero]

end Sys2Proof.Machine

namespace Sys2Proof.Machine

/-! ### The block loop (R160, R169, R170) -/

/-- `CtrXor` with the first block under the counter `c`: what the block loop produces from a state with CTR = `c`. -/
def ctrXorFrom (c : BitVec 64) (w : Schedule) (n8 : Vector Byte 8) (x : List Byte) : List Byte :=
  x.mapIdx fun i b => b ^^^ byteAt (keystream w n8 (c + BitVec.ofNat 64 (i / 16))) (i % 16)

theorem ctrXorFrom_zero (w : Schedule) (n8 : Vector Byte 8) (x : List Byte) : ctrXorFrom 0 w n8 x = ctrXor w n8 x := by
  refine List.mapIdx_eq_mapIdx_iff.mpr fun i _ => ?_
  rw [zero_add]

theorem xorBytes_block {x : List Byte} (h : x.length ≤ 16) (b : Block) :
    xorBytes x b.toList = x.mapIdx fun i a => a ^^^ byteAt b i := by
  apply List.ext_getElem
  · simp [xorBytes, h]
  · intro i hi _
    have hi : i < 16 := by simp [xorBytes] at hi; omega
    simp [xorBytes, byteAt_of_lt b i hi]

/-- The first block is XORed with the keystream under `c`, the rest under the counters from `c + 1` on. -/
theorem ctrXorFrom_block (c : BitVec 64) (w : Schedule) (n8 : Vector Byte 8) (x : List Byte) :
    ctrXorFrom c w n8 x =
      xorBytes (x.take 16) (keystream w n8 c).toList ++ ctrXorFrom (c + 1) w n8 (x.drop 16) := by
  have hfirst : ctrXorFrom c w n8 (x.take 16) = xorBytes (x.take 16) (keystream w n8 c).toList := by
    rw [xorBytes_block (List.length_take_le 16 x)]
    refine List.mapIdx_eq_mapIdx_iff.mpr fun i hi => ?_
    have hi : i < 16 := hi.trans_le (List.length_take_le 16 x)
    rw [Nat.div_eq_of_lt hi, Nat.mod_eq_of_lt hi, BitVec.add_zero]
  have hrest : ((x.drop 16).mapIdx fun i b =>
      b ^^^ byteAt (keystream w n8 (c + BitVec.ofNat 64 ((i + 16) / 16))) ((i + 16) % 16)) =
      ctrXorFrom (c + 1) w n8 (x.drop 16) := by
    refine List.mapIdx_eq_mapIdx_iff.mpr fun i _ => ?_
    rw [Nat.add_div_right i (by decide), Nat.add_mod_right, Nat.add_comm (i / 16) 1,
      BitVec.ofNat_add, ← BitVec.add_assoc]
    rfl
  rcases Nat.lt_or_ge x.length 16 with h | h
  · rw [← hfirst, List.take_of_length_le h.le, List.drop_of_length_le h.le]
    exact (List.append_nil _).symm
  · rw [← hfirst, ← hrest, ctrXorFrom, ctrXorFrom]
    conv_lhs => rw [← List.take_append_drop 16 x, List.mapIdx_append, List.length_take_of_le h]

/-- One turn of the block loop: CTRB; ENCB; CTR + 1. -/
def State.blockTurn (s : State) : State := s.buildCounter.encipher.nextCounter

theorem blockTurn_frame (s : State) :
    s.blockTurn = { s with
      blkin := counterBlock s.nonce s.ctr, mat := s.blockTurn.mat, blkout := s.blockTurn.blkout
      ctr := s.ctr + 1 } := by
  rw [State.blockTurn, buildCounter_encipher_frame]
  rfl

theorem blockTurn_schedule (s : State) : s.blockTurn.schedule = s.schedule := by
  rw [blockTurn_frame]
  rfl

theorem blockTurn_blkout {s : State} (h : s.ksz ≠ .empty) :
    s.blockTurn.blkout = keystream s.schedule s.nonce s.ctr := by
  rw [State.blockTurn, State.nextCounter_blkout, buildCounter_encipher_blkout h]

theorem cipherBlocks_succ (n : Nat) (x : List Byte) (s : State) :
    State.cipherBlocks (n + 1) x s =
      ((State.cipherBlocks n (x.drop 16) s.blockTurn).1,
        xorBytes (x.take 16) s.blockTurn.blkout.toList ++ (State.cipherBlocks n (x.drop 16) s.blockTurn).2) := rfl

theorem cipherBlocks_out {n : Nat} {x : List Byte} {s : State} (hk : s.ksz ≠ .empty) (hn : x.length ≤ 16 * n) :
    (State.cipherBlocks n x s).2 = ctrXorFrom s.ctr s.schedule s.nonce x := by
  induction n generalizing x s with
  | zero =>
    obtain rfl : x = [] := List.length_eq_zero_iff.mp (by omega)
    rfl
  | succ n ih =>
    have hksz : s.blockTurn.ksz = s.ksz := by rw [blockTurn_frame]
    have hctr : s.blockTurn.ctr = s.ctr + 1 := by rw [blockTurn_frame]
    have hnonce : s.blockTurn.nonce = s.nonce := by rw [blockTurn_frame]
    rw [cipherBlocks_succ, ih (hksz ▸ hk) (by simp; omega), blockTurn_blkout hk, hctr, hnonce, blockTurn_schedule,
      ← ctrXorFrom_block]

/-- After the loop BLKIN and BLKOUT are those of the last counter (R169). -/
theorem cipherBlocks_lastBlock {n : Nat} (x : List Byte) {s : State} (hk : s.ksz ≠ .empty) (hn : 0 < n) :
    (State.cipherBlocks n x s).1.blkin = counterBlock s.nonce ((State.cipherBlocks n x s).1.ctr - 1)
      ∧ (State.cipherBlocks n x s).1.blkout =
        keystream s.schedule s.nonce ((State.cipherBlocks n x s).1.ctr - 1) := by
  induction n generalizing x s with
  | zero => cases hn
  | succ n ih =>
    have hksz : s.blockTurn.ksz = s.ksz := by rw [blockTurn_frame]
    have hctr : s.blockTurn.ctr - 1 = s.ctr := by rw [blockTurn_frame]; exact BitVec.add_sub_cancel _ _
    have hnonce : s.blockTurn.nonce = s.nonce := by rw [blockTurn_frame]
    rw [cipherBlocks_succ]
    rcases Nat.eq_zero_or_pos n with rfl | hpos
    · rw [State.cipherBlocks, hctr]
      exact ⟨by rw [blockTurn_frame], blockTurn_blkout hk⟩
    · have := ih (x.drop 16) (s := s.blockTurn) (hksz ▸ hk) hpos
      rwa [hnonce, blockTurn_schedule] at this

theorem cipherBlocks_store (n : Nat) (x : List Byte) {s : State} (h : storeMat s.mat = s.blkout) :
    storeMat (State.cipherBlocks n x s).1.mat = (State.cipherBlocks n x s).1.blkout := by
  induction n generalizing x s with
  | zero => exact h
  | succ n ih =>
    rw [cipherBlocks_succ]
    exact ih (x.drop 16) (storeMat_encipher_mat s.buildCounter)

end Sys2Proof.Machine

namespace Sys2Proof.Machine

/-! ### A whole message under the derived key (R169, R170)

ENCR and DECR derive the key and run the block loop from CTR = 0; they differ in where the nonce comes from and in what
they make of the bytes. -/

/-- The state after DRVK and the block loop over all of `x`. -/
def State.cipherMessage (x : List Byte) (s : State) : State :=
  (State.cipherBlocks (ceilDiv x.length 16) x s.deriveKey).1

/-- What the registers hold after DRVK and the block loop over `n` bytes from CTR = 0, for the password `pw`, when W
held `w` before (R169, R170). -/
structure MessageDone (pw : List Byte) (keybits : BitVec 16) (w : Vector Word 60) (n : Nat) (t : State) : Prop
    extends KeyDerived pw keybits w t where
  ctr : t.ctr = BitVec.ofNat 64 ((n + 15) / 16)
  lastBlock : 0 < n →
    t.blkin = counterBlock t.nonce (t.ctr - 1) ∧ t.blkout = keystream t.schedule t.nonce (t.ctr - 1)
  noBlock : n = 0 →
    t.blkin = arrayOf 16 ((pwBlock pw (keyBytes keybits)).take 16)
      ∧ t.blkout =
        encryptBlock (arrayOf 16 ((pwBlock pw (keyBytes keybits)).take 16)) (expand (pwBlock pw (keyBytes keybits)))
  store : storeMat t.mat = t.blkout

/-- The queues and the completion are no part of it. -/
theorem MessageDone.congr {pw : List Byte} {keybits : BitVec 16} {w : Vector Word 60} {n : Nat} {u t : State}
    (h : MessageDone pw keybits w n u)
    (ht : t = { u with
      din := t.din, dout := t.dout, outlen := t.outlen, done := t.done, busy := t.busy, held := t.held }) :
    MessageDone pw keybits w n t := by
  obtain ⟨⟨key, keyRest, nk, schedule, wRest⟩, ctr, lastBlock, noBlock, store⟩ := h
  rw [ht]
  exact ⟨⟨key, keyRest, nk, schedule, wRest⟩, ctr, lastBlock, noBlock, store⟩

theorem cipherBlocks_schedule (n : Nat) (x : List Byte) (s : State) :
    (State.cipherBlocks n x s).1.schedule = s.schedule := by
  obtain ⟨bi, m, bo, c, h⟩ := cipherBlocks_frame n x s
  rw [h]
  rfl

theorem cipherBlocks_nonce (n : Nat) (x : List Byte) (s : State) : (State.cipherBlocks n x s).1.nonce = s.nonce := by
  obtain ⟨bi, m, bo, c, h⟩ := cipherBlocks_frame n x s
  rw [h]

theorem KeyDerived.cipherBlocks {pw : List Byte} {keybits : BitVec 16} {w : Vector Word 60} {u : State}
    (h : KeyDerived pw keybits w u) (n : Nat) (x : List Byte) :
    KeyDerived pw keybits w (State.cipherBlocks n x u).1 := by
  obtain ⟨key, keyRest, nk, schedule, wRest⟩ := h
  obtain ⟨bi, m, bo, c, hframe⟩ := cipherBlocks_frame n x u
  rw [hframe]
  exact ⟨key, keyRest, nk, schedule, wRest⟩

theorem deriveKey_nonce (s : State) : s.deriveKey.nonce = s.nonce := by
  obtain ⟨k, w, z, bi, m, bo, h⟩ := deriveKey_frame s
  rw [h]

theorem deriveKey_ctr (s : State) : s.deriveKey.ctr = s.ctr := by
  obtain ⟨k, w, z, bi, m, bo, h⟩ := deriveKey_frame s
  rw [h]

theorem deriveKey_ksz_ne {s : State} (h : legalKeybits s.keybits = true) : s.deriveKey.ksz ≠ .empty := by
  have hlegal : legalKeybits s.encryptPassword.blkoutToKey.keybits = true := by
    rwa [State.blkoutToKey_keybits, encryptPassword_keybits]
  rw [deriveKey_eq]
  exact (expandKey_holdsSchedule _ hlegal).1

theorem cipherMessage_nonce (x : List Byte) (s : State) : (s.cipherMessage x).nonce = s.nonce := by
  rw [State.cipherMessage, cipherBlocks_nonce, deriveKey_nonce]

theorem cipherMessage_frame (x : List Byte) (s : State) :
    ∃ k w z bi m bo c, s.cipherMessage x =
      { s with key := k, w := w, ksz := z, blkin := bi, mat := m, blkout := bo, ctr := c } := by
  obtain ⟨bi, m, bo, c, hloop⟩ := cipherBlocks_frame (ceilDiv x.length 16) x s.deriveKey
  obtain ⟨k, w, z, _, _, _, hkey⟩ := deriveKey_frame s
  exact ⟨k, w, z, bi, m, bo, c, by rw [State.cipherMessage, hloop, hkey]⟩

section Message

variable {s : State} (h : legalKeybits s.keybits = true) (hctr : s.ctr = 0) (x : List Byte)

include h hctr

theorem messageDone_cipherMessage : MessageDone s.password s.keybits s.w x.length (s.cipherMessage x) where
  toKeyDerived := (keyDerived_deriveKey h).cipherBlocks _ x
  ctr := by rw [State.cipherMessage, cipherBlocks_ctr, deriveKey_ctr, hctr, zero_add]; rfl
  lastBlock hpos := by
    have hn : 0 < ceilDiv x.length 16 := by rw [ceilDiv]; omega
    have := cipherBlocks_lastBlock x (deriveKey_ksz_ne h) hn
    rwa [← cipherBlocks_nonce (ceilDiv x.length 16) x, ← cipherBlocks_schedule (ceilDiv x.length 16) x] at this
  noBlock hzero := by
    rw [State.cipherMessage, hzero]
    exact ⟨deriveKey_blkin h, (deriveKey_blkout s).trans (encryptPassword_blkout h)⟩
  store := cipherBlocks_store _ x (storeMat_deriveKey_mat s)

/-- The block loop under the derived key produces the bytes of `CtrXor` (R160, R171). -/
theorem cipherBlocks_deriveKey_out :
    (State.cipherBlocks (ceilDiv x.length 16) x s.deriveKey).2 =
      ctrXor (expand (deriveKey s.password s.keyLen)) s.nonce x := by
  have hn : x.length ≤ 16 * ceilDiv x.length 16 := by rw [ceilDiv]; omega
  rw [cipherBlocks_out (deriveKey_ksz_ne h) hn, deriveKey_ctr, hctr, ctrXorFrom_zero, deriveKey_nonce,
    (keyDerived_deriveKey h).schedule, State.keyLen]

end Message

/-! ### ENCR (R169) -/

/-- The text ENCR pushes for the `n` oldest bytes of DIN, as the reference function gives it (R171). -/
def State.encryptedText (n : Nat) (s : State) : List Byte :=
  b64Enc ((nonceOf s.clockPins.sec s.clockPins.ms).toList
    ++ ctrXor (expand (Machine.deriveKey s.password s.keyLen)) (nonceOf s.clockPins.sec s.clockPins.ms) (s.peekIn n))

theorem length_ctrXor (w : Schedule) (n8 : Vector Byte 8) (x : List Byte) : (ctrXor w n8 x).length = x.length :=
  List.length_mapIdx

theorem length_encryptedText {n : Nat} {s : State} (hd : n ≤ s.din.length) :
    (s.encryptedText n).length = 4 * ceilDiv (8 + n) 3 := by
  rw [State.encryptedText, length_b64Enc, List.length_append, Vector.length_toList, length_ctrXor, length_peekIn hd]

theorem genNonce_password (s : State) : s.genNonce.password = s.password := by
  rw [State.password, State.genNonce_pw, State.genNonce_pwlen, State.password]

theorem genNonce_keyLen (s : State) : s.genNonce.keyLen = s.keyLen := by
  rw [State.keyLen, State.genNonce_keybits, State.keyLen]

theorem encryptMessage_eq {n : Nat} {s : State} (h : legalKeybits s.keybits = true) (hd : n ≤ s.din.length) :
    s.encryptMessage n =
      .next ((((s.genNonce.cipherMessage (s.peekIn n)).dropIn n).pushOut (s.encryptedText n)).complete
        (s.encryptedText n).length) := by
  have hlegal : legalKeybits s.genNonce.keybits = true := by rwa [State.genNonce_keybits]
  have hout := cipherBlocks_deriveKey_out hlegal (State.genNonce_ctr s) (s.peekIn n)
  rw [length_peekIn hd, genNonce_password, genNonce_keyLen, State.genNonce_nonce] at hout
  rw [length_encryptedText hd, State.encryptMessage, hout, deriveKey_nonce, State.genNonce_nonce, State.encryptedText,
    State.cipherMessage, length_peekIn hd]

theorem exec_encr_of_short {s : State} (h : legalKeybits s.keybits = true) (hd : s.din.length < s.inlen.toNat) :
    exec .encr s = .next (s.enterHold .encr) := (if_pos h).trans (holdUntil_waits hd)

theorem exec_encr_of_ready {s : State} (h : legalKeybits s.keybits = true) (hd : s.inlen.toNat ≤ s.din.length) :
    exec .encr s = s.encryptMessage s.inlen.toNat := (if_pos h).trans (holdUntil_ready hd)

/-- Settles O37: the text is the reference function's, the registers are those of `MessageDone`. -/
theorem encrPushesTheEncryptedEnvelope : Obligations.EncrPushesTheEncryptedEnvelope := by
  refine ⟨rfl, fun s h => if_neg (by simp [h]), fun s h hd => exec_encr_of_short h hd, fun s h hd => ?effect⟩
  have hexec := (exec_encr_of_ready h hd).trans (encryptMessage_eq h hd)
  have hlegal : legalKeybits s.genNonce.keybits = true := by rwa [State.genNonce_keybits]
  have hmessage := messageDone_cipherMessage hlegal (State.genNonce_ctr s) (s.peekIn s.inlen.toNat)
  rw [length_peekIn hd, genNonce_password, State.genNonce_keybits, State.genNonce_w] at hmessage
  have hnonce := (cipherMessage_nonce (s.peekIn s.inlen.toNat) s.genNonce).trans (State.genNonce_nonce s)
  obtain ⟨key', w', ksz', blkin', mat', blkout', ctr', hframe⟩ :=
    cipherMessage_frame (s.peekIn s.inlen.toNat) s.genNonce
  generalize s.genNonce.cipherMessage (s.peekIn s.inlen.toNat) = u at *
  obtain ⟨⟨key, keyRest, nk, schedule, wRest⟩, ctr, lastBlock, noBlock, store⟩ :=
    hmessage.congr (t := ((u.dropIn s.inlen.toNat).pushOut (s.encryptedText s.inlen.toNat)).complete
      (s.encryptedText s.inlen.toNat).length) rfl
  refine ⟨_, s.encryptedText s.inlen.toNat, s.passwordBlock, hexec, if_pos h, length_encryptedText hd, count64_of_lt,
    hnonce, ctr, rfl, key, keyRest, nk, schedule, wRest, lastBlock, noBlock, store, ?frame⟩
  subst hframe
  simp only [State.complete, State.pushOut, State.dropIn, State.genNonce, State.countSample]

/-! ### DECR (R170) -/

theorem length_le_of_decQ {c0 c1 c2 c3 : Byte} {final : Bool} {x : List Byte} (h : decQ c0 c1 c2 c3 final = some x) :
    x.length ≤ 3 := by
  unfold decQ at h
  split at h
  case h_2 => cases h
  case h_1 =>
    split at h
    · split at h <;> cases h
      simp
    · split at h
      · cases h
      · split at h
        · split at h <;> cases h
          simp
        · split at h <;> cases h
          simp

/-- A text is no shorter than what it decodes to (R206). -/
theorem length_le_of_b64Dec {t x : List Byte} (h : b64Dec t = some x) : x.length ≤ t.length := by
  induction t using b64Dec.induct generalizing x with
  | case1 => cases h; rfl
  | case2 c0 c1 c2 c3 rest q out hout hq ih =>
    rw [b64Dec, hq, hout] at h
    cases h
    have hq := length_le_of_decQ hq
    have hout := ih hout
    simp only [List.length_append, List.length_cons]
    omega
  | case3 c0 c1 c2 c3 rest hfail =>
    rw [b64Dec] at h
    split at h
    next q out hq hout => exact absurd hout (hfail q out hq)
    next => cases h
  | case4 | case5 | case6 => cases h

/-- Decrypt rejects a text, or takes from it the nonce and the ciphertext (R171). -/
theorem decrypt_cases {keybits : BitVec 16} (h : legalKeybits keybits = true) (text pw : List Byte) :
    (decrypt text pw keybits = none ∧ ∀ e, b64Dec text = some e → e.length < 8)
    ∨ ∃ e plain, decrypt text pw keybits = some plain ∧ b64Dec text = some e ∧ e.length = 8 + plain.length
      ∧ ctrXor (expand (deriveKey pw (keyBytes keybits))) (arrayOf 8 e) (e.drop 8) = plain := by
  rw [decrypt, if_pos h]
  cases b64Dec text with
  | none => exact .inl ⟨rfl, fun e he => nomatch he⟩
  | some e =>
    rcases Nat.lt_or_ge e.length 8 with hlt | hge
    · exact .inl ⟨if_pos hlt, fun e' he => Option.some.inj he ▸ hlt⟩
    · refine .inr ⟨e, _, if_neg (Nat.not_lt.mpr hge), rfl, ?_, rfl⟩
      rw [length_ctrXor, List.length_drop, Nat.add_sub_cancel' hge]

theorem exec_decr_of_short {s : State} (h : legalKeybits s.keybits = true) (hd : s.din.length < s.inlen.toNat) :
    exec .decr s = .next (s.enterHold .decr) := (if_pos h).trans (holdUntil_waits hd)

theorem exec_decr_of_ready {s : State} (h : legalKeybits s.keybits = true) (hd : s.inlen.toNat ≤ s.din.length) :
    exec .decr s = s.decryptMessage s.inlen.toNat := (if_pos h).trans (holdUntil_ready hd)

theorem decryptMessage_of_malformed {n : Nat} {s : State} (h : ∀ e, b64Dec (s.peekIn n) = some e → e.length < 8) :
    s.decryptMessage n = .next (s.faultEntry .malformedEnvelope 0x39 0x00) := by
  unfold State.decryptMessage
  split
  next => rfl
  next e he => exact if_pos (h e he)

/-- The state in which DECR runs on the envelope `e`: the text consumed, the nonce loaded (R170). -/
def State.openEnvelope (n : Nat) (e : List Byte) (s : State) : State := (s.dropIn n).loadNonce e

theorem decryptMessage_of_envelope {n : Nat} {s : State} {e plain : List Byte} (h : legalKeybits s.keybits = true)
    (he : b64Dec (s.peekIn n) = some e) (hlength : e.length = 8 + plain.length)
    (hplain : ctrXor (expand (deriveKey s.password s.keyLen)) (arrayOf 8 e) (e.drop 8) = plain) :
    s.decryptMessage n =
      .next ((((s.openEnvelope n e).cipherMessage (e.drop 8)).pushOut plain).complete plain.length) := by
  have hdrop : e.length - 8 = plain.length := by omega
  have hout := (cipherBlocks_deriveKey_out (s := s.openEnvelope n e) h rfl (e.drop 8)).trans hplain
  rw [List.length_drop, hdrop] at hout
  rw [State.decryptMessage, he]
  dsimp only
  rw [if_neg (by omega), State.decryptEnvelope, ← State.openEnvelope, hdrop, hout, State.cipherMessage,
    List.length_drop, hdrop]

/-- The bytes DECR decodes are counted by a 64-bit register, as INLEN is (R33). -/
theorem length_lt_of_b64Dec_peekIn {s : State} {e : List Byte} (he : b64Dec (s.peekIn s.inlen.toNat) = some e) :
    e.length < 2 ^ 64 := by
  have hdecoded := length_le_of_b64Dec he
  have htext : (s.peekIn s.inlen.toNat).length ≤ s.inlen.toNat := List.length_take_le ..
  have := s.inlen.isLt
  omega

theorem toList_arrayOf_take {n : Nat} {x : List Byte} (h : n ≤ x.length) : (arrayOf n x).toList = x.take n := by
  rw [← arrayOf_take le_rfl, toList_arrayOf n _ (List.length_take_of_le h)]

/-- Settles O38: what Decrypt rejects faults, and from what it accepts the registers are those of `MessageDone`. -/
theorem decrPushesTheDecryptedText : Obligations.DecrPushesTheDecryptedText := by
  refine ⟨rfl, fun s h => if_neg (by simp [h]), fun s h hd => exec_decr_of_short h hd, fun s h hd hnone => ?malformed,
    fun s plain h hd hsome => ?effect⟩
  case malformed =>
    rcases decrypt_cases h (s.peekIn s.inlen.toNat) s.password with ⟨-, hshort⟩ | ⟨e, plain, hsome, -⟩
    · exact (exec_decr_of_ready h hd).trans (decryptMessage_of_malformed hshort)
    · cases hsome.symm.trans hnone
  case effect =>
    obtain ⟨hnone, -⟩ | ⟨e, plain', hplain', he, hlength, hplain⟩ :=
      decrypt_cases h (s.peekIn s.inlen.toNat) s.password
    · cases hnone.symm.trans hsome
    obtain rfl : plain' = plain := Option.some.inj (hplain'.symm.trans hsome)
    have hexec := (exec_decr_of_ready h hd).trans (decryptMessage_of_envelope h he hlength hplain)
    have hcount : plain'.length < 2 ^ 64 := by have := length_lt_of_b64Dec_peekIn he; omega
    have hnonce : ((s.openEnvelope s.inlen.toNat e).cipherMessage (e.drop 8)).nonce.toList = e.take 8 := by
      rw [cipherMessage_nonce, State.openEnvelope, State.loadNonce_nonce, toList_arrayOf_take (by omega)]
    have hmessage := messageDone_cipherMessage (s := s.openEnvelope s.inlen.toNat e) h rfl (e.drop 8)
    rw [List.length_drop, show e.length - 8 = plain'.length by omega] at hmessage
    obtain ⟨key', w', ksz', blkin', mat', blkout', ctr', hframe⟩ :=
      cipherMessage_frame (e.drop 8) (s.openEnvelope s.inlen.toNat e)
    generalize (s.openEnvelope s.inlen.toNat e).cipherMessage (e.drop 8) = u at *
    obtain ⟨⟨key, keyRest, nk, schedule, wRest⟩, ctr, lastBlock, noBlock, store⟩ :=
      hmessage.congr (t := (u.pushOut plain').complete plain'.length) rfl
    refine ⟨_, e, s.passwordBlock, hexec, he, hlength, hnonce, count64_of_lt hcount, ctr, rfl, key, keyRest, nk,
      schedule, wRest, lastBlock, noBlock, store, ?frame⟩
    subst hframe
    simp only [State.complete, State.pushOut, State.openEnvelope, State.dropIn, State.loadNonce]

end Sys2Proof.Machine

namespace Sys2Proof.Machine

/-! ### The alphabet (R200) -/

theorem all_b64Chr_b64Val : ∀ c : Byte, (b64Val c).all (fun v => v.toNat < 64 ∧ b64Chr v = c) = true := by decide

theorem b64Val_eq_some_iff {c v : Byte} : b64Val c = some v ↔ v.toNat < 64 ∧ b64Chr v = c :=
  ⟨fun h => of_decide_eq_true ((Option.all_eq_true ..).mp (all_b64Chr_b64Val c) v h),
    fun ⟨hv, hc⟩ => hc ▸ b64Val_b64Chr v hv⟩

theorem b64Chr_lowercase : ∀ v : Byte, 26 ≤ v.toNat ∧ v.toNat ≤ 51 → b64Chr v = 0x61 + (v - 26) := by decide

theorem b64Chr_decimal : ∀ v : Byte, 52 ≤ v.toNat ∧ v.toNat ≤ 61 → b64Chr v = 0x30 + (v - 52) := by decide

/-- Settles O42: the ranges of Chr, and Val as the inverse of Chr on the 64 digits. -/
theorem alphabetAndItsInverse : Obligations.AlphabetAndItsInverse :=
  ⟨fun v => ⟨fun h => if_pos h, b64Chr_lowercase v, b64Chr_decimal v⟩, rfl, rfl, rfl, fun _ _ => b64Val_eq_some_iff⟩

/-! ### A quantum that decodes is the encoding of its bytes (R207) -/

/-- A digit leaves the two high bits clear. -/
theorem high_bits_of_digit : ∀ v : Byte, v.toNat < 64 → v[6] = false ∧ v[7] = false := by decide

/-! The four digits of the decoded bytes are the digits that were decoded. -/

theorem firstDigit_decBytes {v0 v1 : Byte} (h0 : v0.toNat < 64) (h1 : v1.toNat < 64) :
    decByte0 v0 v1 >>> 2 = v0 := by
  obtain ⟨h6, h7⟩ := high_bits_of_digit v0 h0
  obtain ⟨h6', h7'⟩ := high_bits_of_digit v1 h1
  apply BitVec.eq_of_getLsbD_eq
  intro i hi
  interval_cases i <;> simp [decByte0, h6, h7, h6', h7']

theorem secondDigit_decBytes (v0 : Byte) {v1 v2 : Byte} (h1 : v1.toNat < 64) (h2 : v2.toNat < 64) :
    ((decByte0 v0 v1 &&& 3) <<< 4) ||| (decByte1 v1 v2 >>> 4) = v1 := by
  obtain ⟨h6, h7⟩ := high_bits_of_digit v1 h1
  obtain ⟨h6', h7'⟩ := high_bits_of_digit v2 h2
  apply BitVec.eq_of_getLsbD_eq
  intro i hi
  interval_cases i <;> simp [decByte0, decByte1, h6, h7, h6', h7']

theorem thirdDigit_decBytes (v1 : Byte) {v2 v3 : Byte} (h2 : v2.toNat < 64) (h3 : v3.toNat < 64) :
    ((decByte1 v1 v2 &&& 15) <<< 2) ||| (decByte2 v2 v3 >>> 6) = v2 := by
  obtain ⟨h6, h7⟩ := high_bits_of_digit v2 h2
  obtain ⟨h6', h7'⟩ := high_bits_of_digit v3 h3
  apply BitVec.eq_of_getLsbD_eq
  intro i hi
  interval_cases i <;> simp [decByte1, decByte2, h6, h7, h6', h7']

theorem fourthDigit_decBytes (v2 : Byte) {v3 : Byte} (h : v3.toNat < 64) : decByte2 v2 v3 &&& 63 = v3 := by
  obtain ⟨h6, h7⟩ := high_bits_of_digit v3 h
  apply BitVec.eq_of_getLsbD_eq
  intro i hi
  interval_cases i <;> simp [decByte2, h6, h7]

section Quantum

variable {v0 v1 v2 v3 : Byte} (h0 : v0.toNat < 64) (h1 : v1.toNat < 64) (h2 : v2.toNat < 64)

include h0 h1

/-- The unused bits being zero, the byte after the last one would decode to 0. -/
theorem encQ_one_decByte (hzero : v1 &&& 15 = 0) :
    encQ [decByte0 v0 v1] = [b64Chr v0, b64Chr v1, b64Pad, b64Pad] := by
  have hnext : decByte1 v1 0 = 0 := by rw [decByte1, hzero]; rfl
  have hlast := secondDigit_decBytes v0 h1 (v2 := 0) (by decide)
  rw [hnext] at hlast
  rw [encQ, firstDigit_decBytes h0 h1]
  simpa using congrArg b64Chr hlast

include h2

theorem encQ_two_decBytes (hzero : v2 &&& 3 = 0) :
    encQ [decByte0 v0 v1, decByte1 v1 v2] = [b64Chr v0, b64Chr v1, b64Chr v2, b64Pad] := by
  have hnext : decByte2 v2 0 = 0 := by rw [decByte2, hzero]; rfl
  have hlast := thirdDigit_decBytes v1 h2 (v3 := 0) (by decide)
  rw [hnext] at hlast
  rw [encQ, firstDigit_decBytes h0 h1, secondDigit_decBytes v0 h1 h2]
  simpa using congrArg b64Chr hlast

theorem encQ_three_decBytes (h3 : v3.toNat < 64) :
    encQ [decByte0 v0 v1, decByte1 v1 v2, decByte2 v2 v3] = [b64Chr v0, b64Chr v1, b64Chr v2, b64Chr v3] := by
  rw [encQ, firstDigit_decBytes h0 h1, secondDigit_decBytes v0 h1 h2, thirdDigit_decBytes v1 h2 h3,
    fourthDigit_decBytes v2 h3]

end Quantum

/-- What DecQ accepts are 1, 2 or 3 bytes whose encoding is the quantum, fewer than 3 in a final quantum only. -/
theorem encQ_of_decQ {c0 c1 c2 c3 : Byte} {final : Bool} {x : List Byte} (h : decQ c0 c1 c2 c3 final = some x) :
    1 ≤ x.length ∧ x.length ≤ 3 ∧ encQ x = [c0, c1, c2, c3] ∧ (x.length < 3 → final = true) := by
  unfold decQ at h
  split at h
  case h_2 => cases h
  case h_1 v0 v1 hv0 hv1 =>
    obtain ⟨h0, rfl⟩ := b64Val_eq_some_iff.mp hv0
    obtain ⟨h1, rfl⟩ := b64Val_eq_some_iff.mp hv1
    split at h
    next hpad2 =>
      split at h <;> cases h
      next hone =>
        obtain ⟨hfinal, hpad3, hzero⟩ := hone
        exact ⟨by simp, by simp, hpad2 ▸ hpad3 ▸ encQ_one_decByte h0 h1 hzero, fun _ => hfinal⟩
    next =>
      split at h
      next => cases h
      next v2 hv2 =>
        obtain ⟨h2, rfl⟩ := b64Val_eq_some_iff.mp hv2
        split at h
        next hpad3 =>
          split at h <;> cases h
          next htwo =>
            obtain ⟨hfinal, hzero⟩ := htwo
            exact ⟨by simp, by simp, hpad3 ▸ encQ_two_decBytes h0 h1 h2 hzero, fun _ => hfinal⟩
        next =>
          split at h <;> cases h
          next v3 hv3 =>
            obtain ⟨h3, rfl⟩ := b64Val_eq_some_iff.mp hv3
            exact ⟨by simp, by simp, encQ_three_decBytes h0 h1 h2 h3, by simp⟩

theorem decHead_encQ {x : List Byte} {final : Bool} (h1 : 1 ≤ x.length) (h3 : x.length ≤ 3)
    (hfinal : x.length < 3 → final = true) : decHead final (encQ x) = some x := by
  match x with
  | [] => simp at h1
  | [x0] => exact hfinal (by simp) ▸ decHead_encQ_one x0
  | [x0, x1] => exact hfinal (by simp) ▸ decHead_encQ_two x0 x1
  | [x0, x1, x2] => exact decHead_encQ_three x0 x1 x2 final
  | _ :: _ :: _ :: _ :: _ => simp only [List.length_cons] at h3; omega

/-- Settles O43: DecQ inverts EncQ, and EncQ inverts DecQ. -/
theorem decQAcceptsExactlyEncQ : Obligations.DecQAcceptsExactlyEncQ := by
  refine fun c0 c1 c2 c3 final x => ⟨encQ_of_decQ, fun ⟨h1, h3, henc, hfinal⟩ => ?_⟩
  have hdec := decHead_encQ h1 h3 hfinal
  rwa [henc] at hdec

/-! ### B64Enc is the inverse of B64Dec (R205, R206) -/

/-- The first quantum is encoded first; it has three bytes unless it is the last. -/
theorem b64Enc_append {q out : List Byte} (h1 : 1 ≤ q.length) (h3 : q.length ≤ 3) (hlast : q.length < 3 → out = []) :
    b64Enc (q ++ out) = encQ q ++ b64Enc out := by
  match q with
  | [] => simp at h1
  | [x0] => rw [hlast (by simp)]; rfl
  | [x0, x1] => rw [hlast (by simp)]; rfl
  | [x0, x1, x2] => rfl
  | _ :: _ :: _ :: _ :: _ => simp only [List.length_cons] at h3; omega

theorem b64Enc_of_b64Dec {t x : List Byte} (h : b64Dec t = some x) : b64Enc x = t := by
  induction t using b64Dec.induct generalizing x with
  | case1 => cases h; rfl
  | case2 c0 c1 c2 c3 rest q out hout hq ih =>
    rw [b64Dec, hq, hout] at h
    cases h
    obtain ⟨h1, h3, henc, hfinal⟩ := encQ_of_decQ hq
    have hlast : q.length < 3 → out = [] := fun hlt => by
      rw [List.isEmpty_iff.mp (hfinal hlt)] at hout
      cases hout
      rfl
    rw [b64Enc_append h1 h3 hlast, henc, ih hout]
    rfl
  | case3 c0 c1 c2 c3 rest hfail =>
    rw [b64Dec] at h
    split at h
    next q out hq hout => exact absurd hout (hfail q out hq)
    next => cases h
  | case4 | case5 | case6 => cases h

/-- Settles O44: the two inverses, each by induction over its argument's quanta. -/
theorem decodeIsTheInverseOfEncode : Obligations.DecodeIsTheInverseOfEncode :=
  ⟨fun x => ⟨b64Dec_b64Enc x, length_b64Enc x⟩, fun _ _ => b64Enc_of_b64Dec⟩

end Sys2Proof.Machine

namespace Sys2Proof.Machine

/-! ### What the commands of B64 answer (R201 to R204) -/

theorem encode_b64e : ∀ k : Byte, encode (.b64e k) = 0x4000 + k.setWidth 16 := by decide

theorem encode_b64d : ∀ f : Byte, encode (.b64d f) = 0x4100 + f.setWidth 16 := by decide

theorem quantumLenInRange_iff {k : Byte} : quantumLenInRange k = true ↔ 1 ≤ k.toNat ∧ k.toNat ≤ 3 :=
  decide_eq_true_iff

theorem not_quantumLenInRange {k : Byte} (h : k.toNat < 1 ∨ 3 < k.toNat) : ¬ quantumLenInRange k = true := by
  rw [quantumLenInRange_iff]
  omega

theorem finalFlagInRange_iff {f : Byte} : finalFlagInRange f = true ↔ f.toNat ≤ 1 := decide_eq_true_iff

theorem not_finalFlagInRange {f : Byte} (h : 1 < f.toNat) : ¬ finalFlagInRange f = true :=
  fun hf => absurd (finalFlagInRange_iff.mp hf) (Nat.not_le.mpr h)

/-- B64D and B64DM on a decoded text: the text is consumed, its bytes are pushed and counted. -/
theorem replaceIn_eq {x : List Byte} (h : x.length < 2 ^ 64) (n : Nat) (s : State) :
    s.replaceIn n x = .next
      { s with
        din := s.din.drop n, dout := s.dout ++ x, outlen := BitVec.ofNat 64 x.length, done := true, busy := false
        held := none } := by
  simp only [State.replaceIn, State.complete, State.pushOut, State.dropIn, count64_of_lt h]

section B64e

variable {s : State} {k : Byte} (h1 : 1 ≤ k.toNat) (h3 : k.toNat ≤ 3)

include h1 h3

theorem exec_b64e_of_short (hd : s.din.length < k.toNat) : exec (.b64e k) s = .next (s.enterHold (.b64e k)) :=
  (if_pos (quantumLenInRange_iff.mpr ⟨h1, h3⟩)).trans (holdUntil_waits hd)

theorem exec_b64e_of_ready (hd : k.toNat ≤ s.din.length) :
    exec (.b64e k) s = .next (((s.dropIn k.toNat).pushOut (encQ (s.peekIn k.toNat))).complete 4) :=
  (if_pos (quantumLenInRange_iff.mpr ⟨h1, h3⟩)).trans (holdUntil_ready hd)

end B64e

/-- Settles O45: the range, the hold, and the quantum. -/
theorem b64eEncodesOneQuantum : Obligations.B64eEncodesOneQuantum := by
  refine fun k s => ⟨encode_b64e k, fun h => if_neg (not_quantumLenInRange h), exec_b64e_of_short, fun h1 h3 hd =>
    (exec_b64e_of_ready h1 h3 hd).trans ?_⟩
  simp only [State.complete, State.pushOut, State.dropIn, State.peekIn, count64_of_lt (show 4 < 2 ^ 64 by decide)]
  rfl

section B64d

variable {s : State} {f : Byte} (hf : f.toNat ≤ 1)

include hf

theorem exec_b64d_of_short (hd : s.din.length < 4) : exec (.b64d f) s = .next (s.enterHold (.b64d f)) :=
  (if_pos (finalFlagInRange_iff.mpr hf)).trans (holdUntil_waits hd)

theorem exec_b64d_of_rejected (hd : 4 ≤ s.din.length) (hq : decHead (f == 1) (s.peekIn 4) = none) :
    exec (.b64d f) s = .next (s.faultEntry .malformedEnvelope 0x41 f) := by
  refine ((if_pos (finalFlagInRange_iff.mpr hf)).trans (holdUntil_ready hd)).trans ?_
  rw [hq]
  rfl

theorem exec_b64d_of_accepted {x : List Byte} (hd : 4 ≤ s.din.length) (hq : decHead (f == 1) (s.peekIn 4) = some x) :
    exec (.b64d f) s = s.replaceIn 4 x := by
  refine ((if_pos (finalFlagInRange_iff.mpr hf)).trans (holdUntil_ready hd)).trans ?_
  rw [hq]

end B64d

/-- Settles O46: the range, the hold, and what DecQ answers on the four oldest characters. -/
theorem b64dDecodesOneQuantum : Obligations.B64dDecodesOneQuantum := by
  refine fun f s => ⟨encode_b64d f, fun h => if_neg (not_finalFlagInRange h), exec_b64d_of_short,
    fun c0 c1 c2 c3 rest hf hdin => ?_⟩
  have hd : 4 ≤ s.din.length := by simp [hdin]
  have hhead : decHead (f == 1) (s.peekIn 4) = decQ c0 c1 c2 c3 (f == 1) := by rw [State.peekIn, hdin]; rfl
  have hdrop : s.din.drop 4 = rest := by rw [hdin]; rfl
  refine ⟨fun hq => exec_b64d_of_rejected hf hd (hhead.trans hq), fun x hq => ?_⟩
  have hlength := length_le_of_decQ hq
  rw [exec_b64d_of_accepted hf hd (hhead.trans hq), replaceIn_eq (by omega), hdrop]

theorem exec_b64em_of_short {s : State} (hd : s.din.length < s.inlen.toNat) :
    exec .b64em s = .next (s.enterHold .b64em) := if_neg (Nat.not_le.mpr hd)

theorem exec_b64em_of_ready {s : State} (hd : s.inlen.toNat ≤ s.din.length) :
    exec .b64em s = .next (((s.dropIn s.inlen.toNat).pushOut (b64Enc (s.peekIn s.inlen.toNat))).complete
      (4 * ceilDiv s.inlen.toNat 3)) := if_pos hd

/-- Settles O47: the hold and the encoding; no path faults. -/
theorem b64emEncodesTheMessage : Obligations.B64emEncodesTheMessage :=
  ⟨rfl, fun _ hd => exec_b64em_of_short hd, fun _ hd => ⟨_, exec_b64em_of_ready hd, fun h => count64_of_lt h, rfl⟩⟩

theorem exec_b64dm_of_short {s : State} (hd : s.din.length < s.inlen.toNat) :
    exec .b64dm s = .next (s.enterHold .b64dm) := if_neg (Nat.not_le.mpr hd)

theorem exec_b64dm_of_rejected {s : State} (hd : s.inlen.toNat ≤ s.din.length)
    (ht : b64Dec (s.peekIn s.inlen.toNat) = none) :
    exec .b64dm s = .next (s.faultEntry .malformedEnvelope 0x43 0x00) := by
  rw [exec, execB64dm, holdUntil_ready hd, ht]
  rfl

theorem exec_b64dm_of_accepted {s : State} {x : List Byte} (hd : s.inlen.toNat ≤ s.din.length)
    (ht : b64Dec (s.peekIn s.inlen.toNat) = some x) : exec .b64dm s = s.replaceIn s.inlen.toNat x := by
  rw [exec, execB64dm, holdUntil_ready hd, ht]

/-- Settles O48: the hold, and what B64Dec answers on the INLEN oldest characters. -/
theorem b64dmDecodesTheMessage : Obligations.B64dmDecodesTheMessage :=
  ⟨rfl, fun _ hd => exec_b64dm_of_short hd, fun _ hd ht => exec_b64dm_of_rejected hd ht, fun s _ hd ht =>
    (exec_b64dm_of_accepted hd ht).trans (replaceIn_eq (length_lt_of_b64Dec_peekIn ht) s.inlen.toNat s)⟩

end Sys2Proof.Machine

namespace Sys2Proof.Machine

/-! ### A command is its checks, its wait for input, and the rest of its rule (R230, R247) -/

/-- What the rule of a command does once its checks have passed and its input is present. -/
def State.runRule (i : Instr) (s : State) : Result :=
  match i with
  | .nop => execNop s
  | .srst => execSrst s
  | .kexp => .next (s.expandKey.complete 0)
  | .ldst => execLdst s
  | .subb => execSubb s
  | .shrw => execShrw s
  | .mixc => execMixc s
  | .adrk round => .next ((s.addKeyS round.toNat).complete 0)
  | .stst => execStst s
  | .encb => .next (s.encipher.complete 0)
  | .pwbk => .next (s.formPwBlock.complete 0)
  | .drvk => .next (s.deriveKey.complete 0)
  | .gnnc => execGnnc s
  | .ldnc => .next (((s.dropIn 8).loadNonce (s.peekIn 8)).complete 0)
  | .emnc => .next ((s.pushOut s.nonce.toList).complete 8)
  | .ctrb => .next (s.buildCounter.complete 0)
  | .xorb k => .next ((s.xorBlock k.toNat).complete k.toNat)
  | .cblk k => .next ((s.buildCounter.encipher.xorBlock k.toNat).complete k.toNat)
  | .encr => s.encryptMessage s.inlen.toNat
  | .decr => s.decryptMessage s.inlen.toNat
  | .b64e k => .next (((s.dropIn k.toNat).pushOut (encQ (s.peekIn k.toNat))).complete 4)
  | .b64d f =>
    match decHead (f == 1) (s.peekIn 4) with
    | none => s.raise .malformedEnvelope (.b64d f)
    | some x => s.replaceIn 4 x
  | .b64em =>
    .next (((s.dropIn s.inlen.toNat).pushOut (b64Enc (s.peekIn s.inlen.toNat))).complete
      (4 * ceilDiv s.inlen.toNat 3))
  | .b64dm =>
    match b64Dec (s.peekIn s.inlen.toNat) with
    | none => s.raise .malformedEnvelope .b64dm
    | some x => s.replaceIn s.inlen.toNat x

/-! The first cause found at issue, in the order of R247. -/

theorem faultAtIssue_of_not_wf {i : Instr} (s : State) (h : i.wf = false) : faultAtIssue i s = some .illegalCommand :=
  if_pos h

theorem faultAtIssue_of_illegal_keybits {i : Instr} {s : State} (hwf : i.wf = true) (hi : needsKeySize i = true)
    (h : legalKeybits s.keybits = false) : faultAtIssue i s = some .invalidKeySize := by
  simp [faultAtIssue, hwf, hi, h]

theorem faultAtIssue_of_broken {i : Instr} {s : State} (hwf : i.wf = true) (hi : needsKeySize i = false)
    (h : sequenceBroken s i = true) : faultAtIssue i s = some .sequenceError := by
  simp [faultAtIssue, hwf, hi, h]

theorem faultAtIssue_of_passed {i : Instr} {s : State} (hwf : i.wf = true)
    (hi : needsKeySize i = false ∨ legalKeybits s.keybits = true) (h : sequenceBroken s i = false) :
    faultAtIssue i s = none := by
  rcases hi with hi | hi <;> simp [faultAtIssue, hwf, hi, h]

/-- A rule that checks `c` first, where `c` decides whether a fault is found at issue. -/
theorem ite_raise_eq {c : Prop} [Decidable c] {i : Instr} {s : State} {e : ErrCode} {body : Result}
    (hpass : c → faultAtIssue i s = none) (hfail : ¬ c → faultAtIssue i s = some e) :
    (if c then body else s.raise e i) = (faultAtIssue i s).elim body (s.raise · i) := by
  split
  next h => rw [hpass h]; rfl
  next h => rw [hfail h]; rfl

/-- A rule that looks for the cause `c` of SequenceError first. -/
theorem ite_broken_eq {c : Prop} [Decidable c] {i : Instr} {s : State} {body : Result} (hwf : i.wf = true)
    (hi : needsKeySize i = false) (h : c ↔ sequenceBroken s i = true) :
    (if c then s.raise .sequenceError i else body) = (faultAtIssue i s).elim body (s.raise · i) := by
  split
  next hc => rw [faultAtIssue_of_broken hwf hi (h.mp hc)]; rfl
  next hc => rw [faultAtIssue_of_passed hwf (.inl hi) (Bool.eq_false_iff.mpr (mt h.mpr hc))]; rfl

/-- Every command makes the checks of R247 in their order, then waits for its input, then runs the rest of its rule. -/
theorem exec_eq (i : Instr) (s : State) :
    exec i s = (faultAtIssue i s).elim (s.holdUntil (inputNeeded s i) i (State.runRule i)) (s.raise · i) := by
  cases i with
  | nop | srst | ldst | subb | shrw | mixc | stst | gnnc | ldnc | b64em | b64dm => rfl
  | kexp | pwbk | drvk | encr | decr =>
    exact ite_raise_eq (fun h => faultAtIssue_of_passed rfl (.inr h) rfl)
      fun h => faultAtIssue_of_illegal_keybits rfl rfl (Bool.eq_false_iff.mpr h)
  | xorb k | b64e k | b64d k =>
    exact ite_raise_eq (fun h => faultAtIssue_of_passed h (.inl rfl) rfl)
      fun h => faultAtIssue_of_not_wf s (Bool.eq_false_iff.mpr h)
  | emnc | ctrb =>
    exact ite_raise_eq (fun h => faultAtIssue_of_passed rfl (.inl rfl) (by simp [sequenceBroken, h]))
      fun h => faultAtIssue_of_broken rfl rfl (by simp [sequenceBroken, h])
  | encb => exact ite_broken_eq rfl rfl (by simp [sequenceBroken])
  | adrk round =>
    rcases Bool.eq_false_or_eq_true (Instr.adrk round).wf with hwf | hwf
    · exact (if_pos hwf).trans (ite_broken_eq hwf rfl (by simp [sequenceBroken]))
    · rw [faultAtIssue_of_not_wf s hwf]
      exact if_neg (Bool.eq_false_iff.mp hwf)
  | cblk k =>
    rcases Bool.eq_false_or_eq_true (Instr.cblk k).wf with hwf | hwf
    · exact (if_pos hwf).trans (ite_broken_eq hwf rfl (by simp [sequenceBroken, or_comm]))
    · rw [faultAtIssue_of_not_wf s hwf]
      exact if_neg (Bool.eq_false_iff.mp hwf)

theorem exec_of_faultAtIssue {i : Instr} {s : State} {e : ErrCode} (h : faultAtIssue i s = some e) :
    exec i s = s.raise e i := by
  rw [exec_eq, h]
  rfl

theorem exec_of_passed {i : Instr} {s : State} (h : faultAtIssue i s = none) :
    exec i s = s.holdUntil (inputNeeded s i) i (State.runRule i) := by
  rw [exec_eq, h]
  rfl

/-- The rest of a rule runs to its end: it completes, faults or resets, and the command is no longer in hold. -/
theorem runRule_ends (i : Instr) (s : State) : ∃ t, s.runRule i = .next t ∧ t.busy = false ∧ t.held = none := by
  cases i with
  | decr =>
    simp only [State.runRule, State.decryptMessage]
    split
    · exact ⟨_, rfl, rfl, rfl⟩
    · split <;> exact ⟨_, rfl, rfl, rfl⟩
  | b64d f | b64dm =>
    simp only [State.runRule]
    split <;> exact ⟨_, rfl, rfl, rfl⟩
  | _ => exact ⟨_, rfl, rfl, rfl⟩

/-! ### What the checks and the wait look at (R230, R281) -/

theorem faultAtIssue_congr {s t : State} (hkeybits : t.keybits = s.keybits) (hksz : t.ksz = s.ksz) (hnv : t.nv = s.nv)
    (i : Instr) : faultAtIssue i t = faultAtIssue i s := by
  have hbroken : sequenceBroken t i = sequenceBroken s i := by cases i <;> simp [sequenceBroken, hksz, hnv]
  rw [faultAtIssue, faultAtIssue, hkeybits, hbroken]

theorem inputNeeded_congr {s t : State} (hinlen : t.inlen = s.inlen) (i : Instr) :
    inputNeeded t i = inputNeeded s i := by
  cases i <;> simp [inputNeeded, hinlen]

theorem State.HoldInv.congr {s t : State} (hs : s.HoldInv) (hheld : t.held = s.held) (hkeybits : t.keybits = s.keybits)
    (hksz : t.ksz = s.ksz) (hnv : t.nv = s.nv) (hinlen : t.inlen = s.inlen) (hdin : t.din = s.din) : t.HoldInv := by
  intro i hi
  rw [faultAtIssue_congr hkeybits hksz hnv, inputNeeded_congr hinlen, hdin]
  exact hs i (hheld ▸ hi)

theorem holdInv_of_no_hold {s : State} (h : s.held = none) : s.HoldInv := by
  intro i hi
  rw [h] at hi
  cases hi

/-- A command that goes into hold has passed its checks and lacks input; any other is not in hold. -/
theorem exec_holdInv {i : Instr} {s t : State} (h : exec i s = .next t) : t.HoldInv := by
  cases hfault : faultAtIssue i s with
  | some e =>
    rw [exec_of_faultAtIssue hfault] at h
    cases h
    exact holdInv_of_no_hold rfl
  | none =>
    rw [exec_of_passed hfault] at h
    rcases holdUntil_cases (inputNeeded s i) i (State.runRule i) s with ⟨-, hruns⟩ | ⟨hshort, hwaits⟩
    · obtain ⟨u, hu, -, hheld⟩ := runRule_ends i s
      cases (hruns.trans hu).symm.trans h
      exact holdInv_of_no_hold hheld
    · cases hwaits.symm.trans h
      intro j hj
      cases hj
      exact ⟨(faultAtIssue_congr rfl rfl rfl i).trans hfault, (inputNeeded_congr rfl i).symm ▸ hshort⟩

/-- With no command in hold, only a command that an event issues can go into hold. -/
theorem Served.holdInv {s t : State} (h : Served s t) (hheld : s.held = none) : t.HoldInv := by
  cases h with
  | quiet hq => exact holdInv_of_no_hold (hq.held.trans hheld)
  | reset | illegal => exact holdInv_of_no_hold rfl
  | ran _ h => exact exec_holdInv h

end Sys2Proof.Machine

namespace Sys2Proof.Machine

/-! ### What a step does with an event -/

theorem step_of_no_event {s : State} (h : s.env.script = []) : step s = .next s := by
  rw [step, State.advance, h]

theorem step_of_event {s : State} {e : Event} {rest : List Event} (h : s.env.script = e :: rest) :
    step s = (s.withScript rest).serve e := by
  rw [step, State.advance, h]

theorem serve_write_of_idle {s : State} (h : s.busy = false) (a : BitVec 12) (v : Byte) :
    s.serve (.write a v) = s.hostWrite a v := by
  rw [State.serve, h]
  rfl

theorem serve_read_of_idle {s : State} (h : s.busy = false) (a : BitVec 12) :
    s.serve (.read a) = .next (s.hostRead a) := by
  rw [State.serve, h]
  rfl

theorem serve_write_of_busy {s : State} (h : s.busy = true) (a : BitVec 12) (v : Byte) :
    s.serve (.write a v) = s.busyWrite a v := by
  rw [State.serve, h]
  rfl

theorem serve_read_of_busy {s : State} (h : s.busy = true) (a : BitVec 12) : s.serve (.read a) = s.busyRead a := by
  rw [State.serve, h]
  rfl

/-- A CMD write is a command issue (R225). -/
theorem hostWrite_cmd (s : State) (op : Byte) : s.hostWrite 0x000 op = s.issue op := rfl

/-- A DIN write is a push (R226). -/
theorem hostWrite_din (s : State) (v : Byte) : s.hostWrite 0x009 v = s.pushIn v := rfl

theorem issue_of_decoded {s : State} {op : Byte} {i : Instr} (hfault : s.fault = false)
    (hdecode : decode op s.arg = .ok i) : s.issue op = exec i s.accept := by
  unfold State.issue
  rw [hfault, hdecode]
  rfl

theorem issue_of_rejected {s : State} {op : Byte} {r : Reject} (hfault : s.fault = false)
    (hdecode : decode op s.arg = .error r) : s.issue op = .next (s.faultEntry .illegalCommand op s.arg) := by
  unfold State.issue
  rw [hfault, hdecode]
  rfl

theorem issue_of_fault {s : State} {op : Byte} (hfault : s.fault = true) (hop : op ≠ 0x01) :
    s.issue op = .next s := by
  unfold State.issue
  rw [if_pos hfault, if_neg hop]

theorem issue_srst (s : State) : s.issue 0x01 = .next s.toReset := by
  unfold State.issue
  split <;> rfl

theorem pushIn_of_hold {s : State} {i : Instr} (h : s.held = some i) (v : Byte) :
    s.pushIn v = exec i { s with din := s.din ++ [v] } := by
  simp only [State.pushIn, h]

/-! ### A hold waits for input and nothing else (R230) -/

theorem hostRead_holdInv {s : State} (hs : s.HoldInv) (a : BitVec 12) : (s.hostRead a).HoldInv := by
  unfold State.hostRead State.readEffect
  split <;> exact hs.congr rfl rfl rfl rfl rfl rfl

theorem pushIn_holdInv {s t : State} {v : Byte} (h : s.pushIn v = .next t) : t.HoldInv := by
  cases hheld : s.held with
  | none =>
    rw [pushIn_no_hold hheld] at h
    cases h
    exact holdInv_of_no_hold hheld
  | some i =>
    rw [pushIn_of_hold hheld] at h
    exact exec_holdInv h

theorem serve_holdInv_of_busy {s t : State} {e : Event} (hbusy : s.busy = true) (hs : s.HoldInv)
    (h : s.serve e = .next t) : t.HoldInv := by
  cases e with
  | read a =>
    rw [serve_read_of_busy hbusy, State.busyRead] at h
    split at h <;> cases h
    exact hostRead_holdInv hs a
  | write a v =>
    rw [serve_write_of_busy hbusy, State.busyWrite] at h
    split at h
    · exact pushIn_holdInv h
    · cases h
  | clock sec ms =>
    cases h
    exact hs.congr rfl rfl rfl rfl rfl rfl
  | reset =>
    cases h
    exact holdInv_of_no_hold rfl

/-- Settles O59: an event served in a hold leaves the input registers alone, or is a push, after which the command in
hold looks at its input again; with no command in hold only a command that is issued can go into hold. -/
theorem everyStepKeepsHoldInv : Obligations.EveryStepKeepsHoldInv := by
  intro s t hstatus hs h
  obtain ⟨-, -, -, hheld, -, -⟩ := hstatus
  cases hscript : s.env.script with
  | nil =>
    cases (step_of_no_event hscript).symm.trans h
    exact hs
  | cons e rest =>
    have hserve := (step_of_event hscript).symm.trans h
    cases hbusy : s.busy with
    | true => exact serve_holdInv_of_busy (s := s.withScript rest) hbusy (hs.congr rfl rfl rfl rfl rfl rfl) hserve
    | false =>
      have hnone : s.held = none := by simpa [hbusy] using hheld
      exact (serve_served hserve).holdInv hnone

/-- Settles O13: the push looks at the command again, its checks still pass, and its input is short or complete. -/
theorem pushEndsHold : Obligations.PushEndsHold := by
  intro s v i hheld hbusy hdone hpassed
  have hpush := pushIn_of_hold hheld v
  have hexec : exec i { s with din := s.din ++ [v] } = _ :=
    exec_of_passed ((faultAtIssue_congr rfl rfl rfl i).trans hpassed)
  have hneeded : inputNeeded { s with din := s.din ++ [v] } i = inputNeeded s i := inputNeeded_congr rfl i
  rw [hneeded] at hexec
  constructor
  · intro hshort
    rw [hpush, hexec, holdUntil_waits (by simpa using hshort), State.enterHold, ← hheld, ← hbusy, ← hdone]
  · intro hready
    obtain ⟨t, hruns, ht⟩ := runRule_ends i { s with din := s.din ++ [v] }
    rw [holdUntil_ready (by simpa using hready), hruns] at hexec
    exact ⟨t, hpush.trans hexec, hexec, ht⟩

/-! ### The control statements -/

/-- Settles O5: a CMD write issues the word, and the decoded command runs on the accepted state. -/
theorem stepRunsDecodedCommand : Obligations.StepRunsDecodedCommand := by
  intro s op rest i hscript hbusy hfault hdecode
  rw [step_of_event hscript, serve_write_of_idle (s := s.withScript rest) hbusy, hostWrite_cmd,
    issue_of_decoded (s := s.withScript rest) hfault hdecode]
  rfl

/-- The registers that may be read in a hold (R230, R281). -/
def Reg.readInHold (reg : Reg) : Bool := reg == .status || reg == .dincnt || reg == .doutcnt || reg == .dout

theorem readableInHold_of_locate {a : BitVec 12} {reg : Reg} {off : Nat} (h : locate a.toNat = some (reg, off)) :
    readableInHold a = reg.readInHold := by
  unfold readableInHold
  rw [h]
  rfl

/-- The reads the contract allows in a hold lie in the regions of the registers that may be read (R281). -/
theorem readableInHold_of_allowedInHold {a : BitVec 12} (h : Event.allowedInHold (.read a) = true) :
    readableInHold a = true := by
  have hregion : ∃ r ∈ addressMap, r.reg.readInHold = true ∧ r.holds a.toNat = true := by
    simp [Event.allowedInHold, ← BitVec.toNat_inj] at h
    simp [addressMap, Reg.readInHold, Region.holds_iff]
    omega
  obtain ⟨reg, off, hloc, hreg⟩ := exists_locate_of_holds hregion
  rwa [readableInHold_of_locate hloc]

/-- Settles O6: with BUSY = 0 every access is served, and with BUSY = 1 those of the contract are served alike. -/
theorem stepServesReadsAndClock : Obligations.StepServesReadsAndClock := by
  refine ⟨fun s rest => ⟨step_of_no_event, ?write, ?read, fun sec ms hscript => step_of_event hscript⟩,
    fun s => ⟨fun _ => rfl, hostWrite_cmd s, hostWrite_din s, fun a => hostRead_of_ne_dout s⟩⟩
  case write =>
    intro a v hscript ha
    rw [step_of_event hscript]
    cases hbusy : s.busy with
    | false => exact serve_write_of_idle (s := s.withScript rest) hbusy a v
    | true =>
      obtain rfl : a = 0x009 := by simpa [hbusy] using ha
      exact serve_write_of_busy (s := s.withScript rest) hbusy _ v
  case read =>
    intro a hscript ha
    rw [step_of_event hscript]
    cases hbusy : s.busy with
    | false => exact serve_read_of_idle (s := s.withScript rest) hbusy a
    | true =>
      have hread : readableInHold a = true := readableInHold_of_allowedInHold (by simpa [hbusy] using ha)
      exact (serve_read_of_busy (s := s.withScript rest) hbusy a).trans (if_pos hread)

theorem extractLsb'_setWidth_six : ∀ v : BitVec 6,
    (v.setWidth 8).extractLsb' 0 6 = v ∧ (v.setWidth 8).extractLsb' 6 2 = 0 := by decide

/-- Settles O10: PWLEN is the register at 0x008, and a read widens its six bits. -/
theorem pwlenWriteClamps : Obligations.PwlenWriteClamps := by
  intro s v
  have hread : s.readByte 0x008 = s.pwlen.setWidth 8 := readByte_region s .pwlen (off := 0) (by decide)
  rw [hread]
  exact ⟨hostWrite_of_locate (reg := .pwlen) (off := 0) (by decide) (by decide) (by decide),
    extractLsb'_setWidth_six s.pwlen⟩

theorem count64_succ {n : Nat} (h : n + 1 < 2 ^ 64) : count64 (n + 1) = count64 n + 1 := by
  rw [count64_of_lt h, count64_of_lt (Nat.lt_of_succ_lt h), BitVec.ofNat_add]
  rfl

/-- Settles O11: a DIN write is a push, and with no command in hold a push only appends. -/
theorem dinPushAppends : Obligations.DinPushAppends := by
  intro s v hheld
  refine ⟨(hostWrite_din s v).trans (pushIn_no_hold hheld v), fun hfits => ?_,
    readByte_region s .din (off := 0) (by decide)⟩
  rw [State.dincnt, List.length_append, List.length_singleton]
  exact count64_succ hfits

/-- A read of DOUT returns its oldest byte, 0x00 if there is none, and removes it (R227). -/
theorem hostRead_dout (s : State) :
    s.hostRead 0x00A = { s with
      dout := s.dout.drop 1, env := { s.env with replies := s.env.replies ++ [s.dout.headD 0] } } := by
  have hbyte : s.readByte 0x00A = s.dout.headD 0 := readByte_region s .dout (off := 0) (by decide)
  rw [State.hostRead, hbyte]
  rfl

/-- Settles O12: the three clauses are the read of DOUT, on a queue with and without a byte, and a write to a read-only
register. -/
theorem doutPopTakesTheOldestByte : Obligations.DoutPopTakesTheOldestByte := by
  refine ⟨fun s b rest hdout => ?pop, fun s hdout => ?empty, fun s v => ?write⟩
  case pop =>
    rw [hostRead_dout, hdout]
    refine ⟨rfl, fun hfits => ?_⟩
    rw [State.doutcnt, State.doutcnt, hdout]
    exact eq_sub_of_add_eq (count64_succ hfits).symm
  case empty =>
    rw [hostRead_dout, hdout]
    rfl
  case write => exact hostWrite_of_locate (reg := .dout) (off := 0) (by decide) (by decide) (by decide)

/-- Settles O15: the reset values are read off; SRST, issued in any state, and hardware reset are the one reset. -/
theorem resetAndSrstGiveTheResetState : Obligations.ResetAndSrstGiveTheResetState := by
  refine ⟨?values, fun s => ⟨rfl, issue_srst s⟩, fun s rest hscript => step_of_event hscript⟩
  case values =>
    simp [State.reset, zeroWord, cell, Vector.get_eq_getElem, State.dincnt, State.doutcnt, State.status, Ksz.code]

/-- Settles O16: NOP only completes; the decoder rejects its word with ARG ≠ 0; the fault state drops it. -/
theorem nopWritesDoneAndOutlen : Obligations.NopWritesDoneAndOutlen := by
  refine ⟨rfl, fun s => ?effect, fun s hfault harg => ?illegal, fun s hfault => issue_of_fault hfault (by decide)⟩
  case effect => rw [exec, execNop, State.complete, count64_zero]
  case illegal =>
    have hdecode : decode 0x00 s.arg = .error (.argNotZero 0x00 s.arg) := if_neg harg
    exact issue_of_rejected hfault hdecode

end Sys2Proof.Machine

namespace Sys2Proof.Machine

/-! ### What a call delivers (R231) -/

/-- What ENCR answers on `text`, by the reference function (R171). -/
def encrAnswer (text pw : List Byte) (keybits : BitVec 16) (pins : ClockPins) : Except ErrCode (List Byte) :=
  (encrypt text pw keybits pins.sec pins.ms).elim (.error .invalidKeySize) .ok

/-- What DECR answers on `text`, by the reference function; a text that Decrypt rejects under a legal key size is
malformed (R170, R171). -/
def decrAnswer (text pw : List Byte) (keybits : BitVec 16) : Except ErrCode (List Byte) :=
  if legalKeybits keybits then (decrypt text pw keybits).elim (.error .malformedEnvelope) .ok
  else .error .invalidKeySize

/-- `t` is `s` after a call with the given answer, as far as the caller sees it: the bytes pushed, or the fault. -/
def Delivers (s : State) (answer : Except ErrCode (List Byte)) (t : State) : Prop :=
  match answer with
  | .ok out => t.dout = s.dout ++ out ∧ t.outlen = count64 out.length ∧ t.done = true
  | .error e => t.dout = s.dout ∧ t.outlen = 0 ∧ t.done = false ∧ t.err = e ∧ t.fault = true

theorem faultEntry_delivers (s : State) (e : ErrCode) (op arg : Byte) :
    Delivers s (.error e) (s.faultEntry e op arg) := ⟨rfl, rfl, rfl, rfl, rfl⟩

theorem pushOut_complete_delivers {s u : State} (h : u.dout = s.dout) (out : List Byte) :
    Delivers s (.ok out) ((u.pushOut out).complete out.length) := ⟨by simp [h], rfl, rfl⟩

theorem cipherMessage_dout (x : List Byte) (s : State) : (s.cipherMessage x).dout = s.dout := by
  rw [State.cipherMessage, cipherBlocks_dout, deriveKey_dout]

theorem openEnvelope_dout (n : Nat) (e : List Byte) (s : State) : (s.openEnvelope n e).dout = s.dout := rfl

theorem exec_encr_delivers {s : State} (hd : s.inlen.toNat ≤ s.din.length) :
    ∃ t, exec .encr s = .next t
      ∧ Delivers s (encrAnswer (s.peekIn s.inlen.toNat) s.password s.keybits s.clockPins) t := by
  rcases Bool.eq_false_or_eq_true (legalKeybits s.keybits) with h | h
  · refine ⟨_, (exec_encr_of_ready h hd).trans (encryptMessage_eq h hd), ?_⟩
    have hanswer : encrAnswer (s.peekIn s.inlen.toNat) s.password s.keybits s.clockPins
        = .ok (s.encryptedText s.inlen.toNat) := by
      rw [encrAnswer, encrypt, if_pos h]
      rfl
    rw [hanswer]
    exact pushOut_complete_delivers ((cipherMessage_dout _ _).trans (State.genNonce_dout s)) _
  · refine ⟨_, if_neg (Bool.eq_false_iff.mp h), ?_⟩
    rw [encrAnswer, encrypt, if_neg (Bool.eq_false_iff.mp h)]
    exact faultEntry_delivers ..

theorem exec_decr_delivers {s : State} (hd : s.inlen.toNat ≤ s.din.length) :
    ∃ t, exec .decr s = .next t ∧ Delivers s (decrAnswer (s.peekIn s.inlen.toNat) s.password s.keybits) t := by
  unfold decrAnswer
  split
  next h =>
    rw [exec_decr_of_ready h hd]
    rcases decrypt_cases h (s.peekIn s.inlen.toNat) s.password with
      ⟨hnone, hshort⟩ | ⟨e, plain, hsome, he, hlength, hplain⟩
    · rw [hnone]
      exact ⟨_, decryptMessage_of_malformed hshort, faultEntry_delivers ..⟩
    · rw [hsome]
      exact ⟨_, decryptMessage_of_envelope h he hlength hplain,
        pushOut_complete_delivers ((cipherMessage_dout _ _).trans (openEnvelope_dout _ e s)) plain⟩
  next h => exact ⟨_, if_neg h, faultEntry_delivers ..⟩

/-- Two calls with one answer deliver the same. -/
theorem Delivers.agree {s s' t t' : State} {answer : Except ErrCode (List Byte)} (h : Delivers s answer t)
    (h' : Delivers s' answer t') :
    ∃ out, t.dout = s.dout ++ out ∧ t'.dout = s'.dout ++ out ∧ t.outlen = t'.outlen ∧ t.done = t'.done
      ∧ (t.done = false → t.err = t'.err ∧ t.fault = true ∧ t'.fault = true) := by
  cases answer with
  | ok out =>
    obtain ⟨hdout, houtlen, hdone⟩ := h
    obtain ⟨hdout', houtlen', hdone'⟩ := h'
    refine ⟨out, hdout, hdout', houtlen.trans houtlen'.symm, hdone.trans hdone'.symm, fun hfaulted => ?_⟩
    cases hdone.symm.trans hfaulted
  | error e =>
    obtain ⟨hdout, houtlen, hdone, herr, hfault⟩ := h
    obtain ⟨hdout', houtlen', hdone', herr', hfault'⟩ := h'
    exact ⟨[], by simp [hdout], by simp [hdout'], houtlen.trans houtlen'.symm, hdone.trans hdone'.symm,
      fun _ => ⟨herr.trans herr'.symm, hfault, hfault'⟩⟩

/-- Settles O41: the answers of the reference functions are the same for the same text, password, key size and clock. -/
theorem callResultDependsOnlyOnItsInputs : Obligations.CallResultDependsOnlyOnItsInputs := by
  intro i s s' hi hkeybits _ hpassword _ hd hd' htext hclock
  obtain ⟨answer, ⟨t, ht, hdelivers⟩, t', ht', hdelivers'⟩ : ∃ answer,
      (∃ t, exec i s = .next t ∧ Delivers s answer t) ∧ ∃ t', exec i s' = .next t' ∧ Delivers s' answer t' := by
    rcases hi with rfl | rfl
    · refine ⟨_, exec_encr_delivers hd, ?_⟩
      rw [State.peekIn, State.password, htext, hpassword, hkeybits, hclock rfl]
      exact exec_encr_delivers hd'
    · refine ⟨_, exec_decr_delivers hd, ?_⟩
      rw [State.peekIn, State.password, htext, hpassword, hkeybits]
      exact exec_decr_delivers hd'
  obtain ⟨out, hagree⟩ := hdelivers.agree hdelivers'
  exact ⟨t, t', out, ht, ht', hagree⟩

end Sys2Proof.Machine

namespace Sys2Proof.Machine

/-! ### The fault state (R243 to R248) -/

/-- In the fault state, with no command in hold, an event is SRST or hardware reset and resets the machine, or FAULT
stays 1. -/
theorem serve_of_fault {s t : State} {e : Event} (hfault : s.fault = true) (hbusy : s.busy = false)
    (hheld : s.held = none) (h : s.serve e = .next t) :
    ((e = .reset ∨ e = .write 0x000 0x01) ∧ t = s.toReset) ∨ t.fault = true := by
  cases e with
  | read a =>
    rw [serve_read_of_idle hbusy] at h
    cases h
    exact .inr ((hostRead_quiet s a).fault.trans hfault)
  | write a v =>
    rw [serve_write_of_idle hbusy] at h
    rcases hostWrite_cases h with ⟨rfl, hissue⟩ | hpush | hquiet
    · by_cases hsrst : v = 0x01
      · subst hsrst
        cases (issue_srst s).symm.trans hissue
        exact .inl ⟨.inr rfl, rfl⟩
      · cases (issue_of_fault hfault hsrst).symm.trans hissue
        exact .inr hfault
    · cases (pushIn_no_hold hheld v).symm.trans hpush
      exact .inr hfault
    · exact .inr (hquiet.fault.trans hfault)
  | clock sec ms =>
    cases h
    exact .inr hfault
  | reset =>
    cases h
    exact .inl ⟨.inl rfl, rfl⟩

/-- Settles O52: no command is in hold in the fault state, and of the events only the two resets clear FAULT. -/
theorem faultStateIsLeftOnlyByReset : Obligations.FaultStateIsLeftOnlyByReset := by
  intro s t hs hfault h hleft
  obtain ⟨-, -, -, hheld, hhold, -⟩ := hs
  have hbusy : s.busy = false := Bool.eq_false_iff.mpr fun hbusy => by simpa [hfault] using (hhold hbusy).2
  have hnone : s.held = none := by simpa [hbusy] using hheld
  cases hscript : s.env.script with
  | nil =>
    cases (step_of_no_event hscript).symm.trans h
    cases hfault.symm.trans hleft
  | cons e rest =>
    have hserve := (step_of_event hscript).symm.trans h
    rcases serve_of_fault (s := s.withScript rest) hfault hbusy hnone hserve with ⟨rfl | rfl, rfl⟩ | hstays
    · exact ⟨rest, .inl rfl, rfl⟩
    · exact ⟨rest, .inr rfl, rfl⟩
    · cases hstays.symm.trans hleft

/-- R246: a word that does not decode is rejected at issue, and one that decodes to a command whose operand is out of
range is rejected by that command. -/
theorem issue_of_illegal {s : State} {op : Byte} (hfault : s.fault = false) (h : legalWord op s.arg = false) :
    s.issue op = .next (s.faultEntry .illegalCommand op s.arg) := by
  cases hdecode : decode op s.arg with
  | error r => exact issue_of_rejected hfault hdecode
  | ok i =>
    have hwf : i.wf = false := Bool.eq_false_iff.mpr fun hwf =>
      Bool.eq_false_iff.mp h ((legalWordsDecodeToWellFormedCommands op s.arg).mpr ⟨i, hdecode, hwf⟩)
    obtain ⟨hop, harg | rfl⟩ := decode_eq_ok_iff.mp hdecode
    · rw [issue_of_decoded hfault hdecode, exec_of_faultAtIssue (faultAtIssue_of_not_wf _ hwf), raise_eq,
        faultEntry_accept, ← hop, ← harg]
    · cases hwf

/-- Settles O3: the faulted state, written field by field, is the fault entry of R243. -/
theorem illegalWordTakesIllegalCommand : Obligations.IllegalWordTakesIllegalCommand :=
  fun _ _ hfault h => issue_of_illegal hfault h

/-- Settles O49: of the ways in which a command ends only fault entry sets FAULT. -/
theorem faultsArePrecise : Obligations.FaultsArePrecise := by
  intro i s t hfault h hfaulted
  rcases exec_cases h with ⟨u, out, hu, -, rfl⟩ | ⟨e, he, rfl⟩ | rfl | ⟨-, rfl⟩
  · cases (hu.fault.trans hfault).symm.trans hfaulted
  · exact ⟨e, he, rfl⟩
  · cases hfault.symm.trans hfaulted
  · cases hfaulted

/-! ### What a rule does with its input (R244, R247) -/

/-- The rest of a rule faults on a malformed text, and on any other input completes; SRST resets. -/
theorem runRule_cases (i : Instr) (s : State) :
    (inputMalformed s i = true ∧ s.runRule i = s.raise .malformedEnvelope i)
    ∨ (inputMalformed s i = false ∧ (i = .srst ∨ ∃ u n, s.runRule i = .next (State.complete n u))) := by
  cases i with
  | srst => exact .inr ⟨rfl, .inl rfl⟩
  | decr =>
    simp only [inputMalformed, State.runRule, State.decryptMessage, State.peekIn]
    cases b64Dec (s.din.take s.inlen.toNat) with
    | none => exact .inl ⟨rfl, rfl⟩
    | some e =>
      by_cases hshort : e.length < 8
      · exact .inl ⟨decide_eq_true hshort, if_pos hshort⟩
      · exact .inr ⟨decide_eq_false hshort, .inr ⟨_, _, if_neg hshort⟩⟩
  | b64d f =>
    simp only [inputMalformed, State.runRule, State.peekIn]
    cases decHead (f == 1) (s.din.take 4) with
    | none => exact .inl ⟨rfl, rfl⟩
    | some x => exact .inr ⟨rfl, .inr ⟨_, _, rfl⟩⟩
  | b64dm =>
    simp only [inputMalformed, State.runRule, State.peekIn]
    cases b64Dec (s.din.take s.inlen.toNat) with
    | none => exact .inl ⟨rfl, rfl⟩
    | some x => exact .inr ⟨rfl, .inr ⟨_, _, rfl⟩⟩
  | _ => exact .inr ⟨rfl, .inr ⟨_, _, rfl⟩⟩

/-- A command that ends with DONE = 1 completed after its effect. -/
theorem exec_done {i : Instr} {s t : State} (h : exec i s = .next t) (hdone : t.done = true) :
    ∃ u n, Effect i s u ∧ t = State.complete n u := by
  rcases exec_cases h with ⟨u, out, hu, -, ht⟩ | ⟨e, -, rfl⟩ | rfl | ⟨-, rfl⟩
  · exact ⟨u, out.length, hu, ht⟩
  · cases hdone
  · cases hdone
  · cases hdone

/-- Settles O50: the checks, the wait, and the rest of the rule, in the order of `exec_eq`. -/
theorem commandOutcomeFollowsThePriorityOrder : Obligations.CommandOutcomeFollowsThePriorityOrder := by
  refine ⟨fun _ _ => issue_of_fault, fun _ _ => issue_of_illegal, fun i s => ⟨fun e => exec_of_faultAtIssue,
    fun hpassed hshort => (exec_of_passed hpassed).trans (holdUntil_waits hshort),
    fun hpassed hready hmalformed => ?malformed, fun hpassed hready hsound hi => ?completes⟩⟩
  all_goals
    have hexec := (exec_of_passed hpassed).trans (holdUntil_ready hready)
    rcases runRule_cases i s with ⟨hinput, hruns⟩ | ⟨hinput, hruns⟩
  case malformed.inl => exact hexec.trans hruns
  case malformed.inr => cases hinput.symm.trans hmalformed
  case completes.inl => cases hinput.symm.trans hsound
  case completes.inr =>
    obtain ⟨v, m, hruns⟩ := hruns.resolve_left hi
    obtain ⟨u, n, hu, ht⟩ := exec_done (hexec.trans hruns) rfl
    exact ⟨_, (hexec.trans hruns).trans (congrArg _ ht), rfl, rfl, rfl, hu.fault, hu.err, hu.errop, hu.errarg⟩

/-! ### What looks at FAULT (R245) -/

section FaultBit

variable (s : State) (b : Bool)

theorem writeReg_fault (off : Nat) (v : Byte) (reg : Reg) :
    ({ s with fault := b } : State).writeReg off v reg = { s.writeReg off v reg with fault := b } := by
  cases reg <;> rfl

/-- A write outside CMD does not look at FAULT. -/
theorem hostWrite_fault {s t : State} {a : BitVec 12} {v : Byte} (ha : a ≠ 0x000) (hheld : s.held = none)
    (h : s.hostWrite a v = .next t) :
    ({ s with fault := b } : State).hostWrite a v = .next { t with fault := b } := by
  unfold State.hostWrite at h ⊢
  split at h
  next off hloc => exact absurd (locate_cmd hloc) ha
  next off hloc =>
    rw [pushIn_no_hold hheld] at h
    cases h
    exact pushIn_no_hold (s := { s with fault := b }) hheld v
  next reg off _ _ _ =>
    cases h
    exact congrArg Host.Outcome.next (writeReg_fault s b off v reg)
  next =>
    cases h
    rfl

theorem regByte_fault (off : Nat) {reg : Reg} (h : reg ≠ .status) :
    ({ s with fault := b } : State).regByte off reg = s.regByte off reg := by
  cases reg
  case status => exact absurd rfl h
  all_goals rfl

/-- Of the bytes of the map only STATUS shows FAULT. -/
theorem readByte_fault {a : BitVec 12} (h : a ≠ 0x002) :
    ({ s with fault := b } : State).readByte a = s.readByte a := by
  cases hloc : locate a.toNat with
  | none => rw [readByte_of_locate_none hloc, readByte_of_locate_none hloc]
  | some p =>
    obtain ⟨reg, off⟩ := p
    have hreg : reg ≠ .status := by
      rintro rfl
      obtain ⟨ha, hoff⟩ := locate_eq_some_iff.mp hloc
      obtain rfl : off = 0 := Nat.lt_one_iff.mp hoff
      exact h (BitVec.eq_of_toNat_eq ha)
    rw [readByte_of_locate hloc, readByte_of_locate hloc, regByte_fault s b off hreg]

theorem hostRead_fault {a : BitVec 12} (h : a ≠ 0x002) :
    ({ s with fault := b } : State).hostRead a = { s.hostRead a with fault := b } := by
  rw [State.hostRead, State.hostRead, readByte_fault s b h, State.readEffect, State.readEffect]
  split <;> rfl

end FaultBit

/-- Settles O51: a state with FAULT = 1 is the same state with FAULT cleared and set again. -/
theorem faultStateDropsCommands : Obligations.FaultStateDropsCommands := by
  intro s hfault
  have hset : ({ ({ s with fault := false } : State) with fault := true } : State) = s := hfault ▸ rfl
  refine ⟨fun op hop => issue_of_fault hfault hop, fun a v t ha hheld h => ?write, fun a ha => ?read⟩
  case write => exact hset ▸ hostWrite_fault true ha hheld h
  case read => exact hset ▸ hostRead_fault { s with fault := false } true ha

/-! ### The clock samples of a command (R253, R290) -/

theorem deriveKey_env (s : State) : s.deriveKey.env = s.env := by
  obtain ⟨k, w, z, bi, m, bo, h⟩ := deriveKey_frame s
  rw [h]

theorem cipherBlocks_env (n : Nat) (x : List Byte) (s : State) : (State.cipherBlocks n x s).1.env = s.env := by
  obtain ⟨bi, m, bo, c, h⟩ := cipherBlocks_frame n x s
  rw [h]

theorem encipher_env (s : State) : s.encipher.env = s.env := by rw [encipher_eq]

/-- GNNC and ENCR take one sample when they run, and no other rule touches the environment. -/
theorem runRule_env {i : Instr} {s t : State} (h : s.runRule i = .next t) :
    t.env = if i = .gnnc ∨ i = .encr then { s.env with draws := s.env.draws + 1 } else s.env := by
  cases i with
  | decr =>
    simp only [State.runRule, State.decryptMessage] at h
    split at h
    · cases h; rfl
    · split at h <;> cases h
      · rfl
      · simp [deriveKey_env, cipherBlocks_env]
  | b64d f | b64dm =>
    simp only [State.runRule] at h
    split at h <;> cases h <;> rfl
  | _ =>
    cases h
    simp [deriveKey_env, cipherBlocks_env, encipher_env, State.xorBlock, toReset_env]

/-- Settles O56: a command that faults at issue or waits leaves the environment alone, with DONE = 0. -/
theorem clockIsSampledOncePerNonce : Obligations.ClockIsSampledOncePerNonce := by
  intro i s t h
  cases hissue : faultAtIssue i s with
  | some e =>
    cases (exec_of_faultAtIssue hissue).symm.trans h
    exact ⟨.inl rfl, fun _ hdone => nomatch hdone⟩
  | none =>
    rw [exec_of_passed hissue] at h
    rcases holdUntil_cases (inputNeeded s i) i (State.runRule i) s with ⟨-, hruns⟩ | ⟨-, hwaits⟩
    · have henv := runRule_env (hruns.symm.trans h)
      by_cases hi : i = .gnnc ∨ i = .encr
      · rw [if_pos hi] at henv
        exact ⟨.inr ⟨hi, henv⟩, fun _ _ => henv⟩
      · rw [if_neg hi] at henv
        exact ⟨.inl henv, fun hi' => absurd hi' hi⟩
    · cases hwaits.symm.trans h
      exact ⟨.inl rfl, fun _ hdone => nomatch hdone⟩

end Sys2Proof.Machine

namespace Sys2Proof.Machine

/-! ### What the bus refuses (R281) -/

theorem issue_next (op : Byte) (s : State) : ∃ t, s.issue op = .next t := by
  unfold State.issue
  split
  next =>
    split
    · exact exec_next .srst s
    · exact ⟨s, rfl⟩
  next =>
    split
    next i _ => exact exec_next i s.accept
    next => exact ⟨_, rfl⟩

theorem pushIn_next (v : Byte) (s : State) : ∃ t, s.pushIn v = .next t := by
  cases hheld : s.held with
  | none => exact ⟨_, pushIn_no_hold hheld v⟩
  | some i =>
    rw [pushIn_of_hold hheld]
    exact exec_next i _

theorem hostWrite_next (a : BitVec 12) (v : Byte) (s : State) : ∃ t, s.hostWrite a v = .next t := by
  unfold State.hostWrite
  split
  next => exact issue_next v s
  next => exact pushIn_next v s
  next => exact ⟨_, rfl⟩
  next => exact ⟨s, rfl⟩

theorem serve_next_of_idle {s : State} (h : s.busy = false) (e : Event) : ∃ t, s.serve e = .next t := by
  cases e with
  | read a => exact ⟨_, serve_read_of_idle h a⟩
  | write a v =>
    rw [serve_write_of_idle h]
    exact hostWrite_next a v s
  | clock sec ms => exact ⟨_, rfl⟩
  | reset => exact ⟨_, rfl⟩

theorem step_next_of_idle {s : State} (h : s.busy = false) : ∃ t, step s = .next t := by
  cases hscript : s.env.script with
  | nil => exact ⟨s, step_of_no_event hscript⟩
  | cons e rest =>
    rw [step_of_event hscript]
    exact serve_next_of_idle (s := s.withScript rest) h e

/-- The address map and the contract name the same reads (R62, R281). -/
theorem readableInHold_iff {a : BitVec 12} : readableInHold a = true ↔ Event.allowedInHold (.read a) = true := by
  refine ⟨fun h => ?_, readableInHold_of_allowedInHold⟩
  cases hloc : locate a.toNat with
  | none =>
    rw [readableInHold, hloc] at h
    cases h
  | some p =>
    obtain ⟨reg, off⟩ := p
    obtain ⟨ha, hoff⟩ := locate_eq_some_iff.mp hloc
    rw [readableInHold_of_locate hloc] at h
    simp only [Event.allowedInHold, Bool.or_eq_true, beq_iff_eq, decide_eq_true_eq, ← BitVec.toNat_inj]
    cases reg <;> cases h
    all_goals
      simp [Reg.region, addressMap] at ha hoff ⊢
      omega

theorem busyRead_refused_iff {a : BitVec 12} {s : State} :
    (∃ r, s.busyRead a = .refused r) ↔ Event.allowedInHold (.read a) = false := by
  rw [← Bool.not_eq_true, ← readableInHold_iff, State.busyRead]
  by_cases ha : readableInHold a = true <;> simp [ha]

theorem busyWrite_refused_iff {a : BitVec 12} {v : Byte} {s : State} :
    (∃ r, s.busyWrite a v = .refused r) ↔ Event.allowedInHold (.write a v) = false := by
  obtain ⟨t, hpush⟩ := pushIn_next v s
  rw [State.busyWrite, hpush, Event.allowedInHold, beq_eq_false_iff_ne]
  split
  next ha => exact ⟨fun ⟨_, h⟩ => (nomatch h), fun hne => absurd ha hne⟩
  next ha => exact ⟨fun _ => ha, fun _ => ⟨_, rfl⟩⟩

theorem serve_refused_iff_of_busy {s : State} (h : s.busy = true) (e : Event) :
    (∃ r, s.serve e = .refused r) ↔ e.allowedInHold = false := by
  cases e with
  | read a =>
    rw [serve_read_of_busy h]
    exact busyRead_refused_iff
  | write a v =>
    rw [serve_write_of_busy h]
    exact busyWrite_refused_iff
  | clock sec ms => simp [State.serve, Event.allowedInHold]
  | reset => simp [State.serve, Event.allowedInHold]

/-- Settles O14: the bus refuses by the contract while BUSY = 1, and every command, push and access it lets through
answers a next state. -/
theorem refusesExactlyOutsideTheHoldContract : Obligations.RefusesExactlyOutsideTheHoldContract := by
  constructor
  · intro s e rest hscript hbusy
    rw [step_of_event hscript]
    exact serve_refused_iff_of_busy (s := s.withScript rest) hbusy e
  · intro s hbusy r hrefused
    obtain ⟨t, hnext⟩ := step_next_of_idle hbusy
    cases hnext.symm.trans hrefused

end Sys2Proof.Machine
